-- ==== Sys2Proof/Word.lean ====
section
/-! DEFINITION. The words of the I2CBB: a bit (a line level or a 1-bit register), a byte (SHIFT, RXDATA), and the 16-bit
word of the host register port (`W_HOST` = 16, 00_scope.md rule R13). -/

namespace Sys2Proof

/-- One bit: a line level, or a register of one bit. On an output `true` is released and `false` driven low; on an input
`true` reads high (R17). -/
abbrev Bit := Bool

/-- A byte of a frame. -/
abbrev Byte := BitVec 8

/-- A word of the host register port, and a command word (R70, R100). -/
abbrev Word := BitVec 16

end Sys2Proof
end

