-- ==== Sys2Proof/Config.lean ====
section
/-! DEFINITION. What the spec leaves to an implementation or to the Environment: constants without a body (nothing can be
proved of their values), and the parameters of the host procedures. -/

namespace Sys2Proof

/-- `N_POLL` less one, of each instance of a system: `N_POLL` is OPEN, at least 1 (R13, D17). -/
opaque Config.nPollPred : Nat → Nat

/-- `N_POLL` of instance `k`, the number of SCL samples a clock-stretch wait takes before it times out (R13); the reset value of
`State.nPoll`. No rule says whether the instances of one system have one common `N_POLL`: each has its own here, and nothing
relates two of them. DESIGN CHOICE (log 3). Safe: nothing fixes it beyond being at least 1. -/
def Config.nPoll (k : Nat) : Nat := Config.nPollPred k + 1

/-- `N_INST` less one (R13, D25). -/
opaque Config.nInstPred : Nat

/-- `N_INST`, the number of I2CBB instances of a system (R13, R262). Safe: only at least 1 is known of it. -/
def Config.nInst : Nat := Config.nInstPred + 1

/-- Which bus the line ports of instance `k` are on (R262: "Two instances may share one bus"). Safe: unconstrained. DESIGN
CHOICE (log 18). -/
opaque Config.busOf : Nat → Nat

/-- The Environment's contribution to SCL at the n-th free draw of a stream (R37, I9), one stream an instance (R262), so that
draws of two instances have nothing to do with each other. Safe: unconstrained. DESIGN CHOICE (log 2). -/
opaque Config.freeScl : Nat → Nat → Bit

/-- The Environment's contribution to SDA at the n-th free draw of a stream (R37, I9), one stream an instance (R262). Safe:
unconstrained. DESIGN CHOICE (log 2). -/
opaque Config.freeSda : Nat → Nat → Bit

/-- What the second phase of `addr_read` does (R211, C5). -/
inductive AddrReadMode where
  | intended   -- READ+STOP
  | reference  -- WRITE+STOP
deriving DecidableEq, Repr

/-- Which byte of the sub-address value goes first (R211, D28). -/
inductive SubaddrOrder where
  | msbFirst
  | lsbFirst
deriving DecidableEq, Repr

/-- The parameters of the host procedures (R211), and the parameter I12 gives the `recv_byte` wrapper. They bind no part
of the I2CBB. -/
structure HostParams where
  slaveId : BitVec 7
  /-- `ADDR_BYTES`, 0 to 4 (D30). -/
  addrBytes : Fin 5
  subaddrOrder : SubaddrOrder
  addrReadMode : AddrReadMode := .intended
  nackAborts : Bool := false
  /-- I12: also copy `RXDATA` out when the acknowledge slot timed out (the reference); the default is R213's wrapper. -/
  outOnAckTimeout : Bool := false
deriving DecidableEq, Repr

end Sys2Proof
end

