-- ==== Sys2Proof/Syntax.lean ====
section
/-! DEFINITION. The commands of "I2CBB command set 1" (R2, R102): one constructor per row of spec/opcode_table.json, the
three aliases (R112) included. -/

namespace Sys2Proof

/-- A command with its operands. All operands are immediate fields of the command word (R102). -/
inductive Instr where
  /-- RECV_BIT (R137). -/
  | recvBit
  /-- SEND_BIT B (R139). -/
  | sendBit (b : Bit)
  /-- SEND_BYTE DATA (R161). -/
  | sendByte (data : Byte)
  /-- RECV_BYTE (R166). -/
  | recvByte
  /-- START (R181). -/
  | start
  /-- STOP (R185). -/
  | stop
  /-- SEND_ADDR ID, R (R190); `r = true` is a read transaction. -/
  | sendAddr (id : BitVec 7) (r : Bit)
  /-- RELEASE (R195). -/
  | release
  /-- RECV_ACK, the alias of RECV_BIT (R141). -/
  | recvAck
  /-- SEND_ACK, the alias of SEND_BIT 0 (R142). -/
  | sendAck
  /-- SEND_NACK, the alias of SEND_BIT 1 (R143). -/
  | sendNack
deriving DecidableEq, Repr

end Sys2Proof
end

