-- ==== Sys2Proof/Machine/State.lean ====
section
/-! DEFINITION. The state of one I2CBB instance (R30), with the inputs and parameters the step reads beside it, the reasons
a step can stop, and the state after reset (R59). -/

namespace Sys2Proof.Machine

/-- Where a step list takes the bit it drives or sends. -/
inductive BitSrc where
  /-- A constant of the pseudocode. -/
  | const (v : Bit)
  /-- `CUR[8]`, the operand B of SEND_BIT (R139). -/
  | cmdB
  /-- `SHIFT[7 - BITCNT]`, the data bit of a frame (R161). -/
  | shiftBit
deriving DecidableEq, Repr

/-- The primitives of R19 that the step lists of 40-42 use, one engine step each. Finish is the position `Upc.fin`. -/
inductive Prim where
  /-- `SetSCL(v)`. -/
  | setScl (v : Bit)
  /-- `SetSDA(v)`. -/
  | setSda (v : BitSrc)
  /-- `Settle()` (R132; no duration, and none beyond those the rules list: logs 14 and 15). -/
  | settle
  /-- One `PollSCL()` sample of `WaitSCLHigh()` (R134). -/
  | pollScl
  /-- `ReadSDA()` (R133). -/
  | readSda
deriving DecidableEq, Repr

/-- The lines of the pseudocode that cost no engine step of their own (R45): register assignments and the decisions taken on
a sample. DEDUCED (log 7): each is done with the engine step it stands beside. -/
inductive Work where
  /-- `SHIFT <- CUR[15:8]` (R161). -/
  | loadData
  /-- `SHIFT <- {CUR[14:8], CUR[4]}` (R190). -/
  | loadAddr
  /-- A clock-stretch wait begins: no sample taken yet (R134). -/
  | startWait
  /-- `if v = 1 and SMP = 0: ARB_ACC <- 1` (R138, R140). -/
  | checkArb (v : BitSrc)
  /-- `if SMP = 0: raise BUS_CONFLICT` (R181). -/
  | checkIdle
  /-- `RES_BIT <- SMP` (R137, R161). -/
  | returnBit
  /-- `SHIFT <- {SHIFT[6:0], SMP}` (R166). -/
  | shiftIn
  /-- The next index of `for BITCNT in 0 .. 7` (R161, R166). -/
  | nextBit
  /-- `RX_VALID <- 1` (R166). -/
  | markReceived
deriving DecidableEq, Repr

/-- One entry of a step list: a primitive, and the work done before and after it within the same engine step. -/
structure MicroStep where
  before : List Work := []
  prim : Prim
  after : List Work := []
deriving DecidableEq, Repr

/-- A step list (R130), without its Finish. -/
abbrev StepList := List MicroStep

/-- UPC, the micro-sequence position (R41): IDLE, then the step that comes next with the steps after it, then FIN. The
encoding is left to the model (I4). DESIGN CHOICE (log 5). -/
inductive Upc where
  | idle
  | run (now : MicroStep) (rest : StepList)
  | fin
deriving DecidableEq, Repr

/-- The error codes (R242-R245). -/
inductive ErrCode where
  | none
  | busConflict
  | stretchTimeout
  | illegalCmd
deriving DecidableEq, Repr

/-- STATUS (R48): every bit is assigned, so the register is its fields; `Status.word` is the word a read returns. -/
structure Status where
  busy : Bit
  done : Bit
  overrun : Bit
  err : BitVec 3
  arbLost : Bit
  bit : Bit
  rxdata : Byte
deriving DecidableEq, Repr

/-- One move in the total order of atomic steps (R80), as the step reads it from `State.pending`. -/
inductive Event where
  /-- The Host offers the word and lets the Engine run until it is idle again: R212's `Exec` (log 1). -/
  | command (w : Word)
  /-- `MemWrite(off, size, v)` (R18). -/
  | write (off : BitVec 2) (size : Nat) (v : Word)
  /-- `MemRead(off, size)` (R18). -/
  | read (off : BitVec 2) (size : Nat)
  /-- The Engine takes one engine step (R45). -/
  | engine
  /-- The reset input goes to the level given; `true` is asserted (R280). -/
  | rst (level : Bit)
deriving DecidableEq, Repr

/-- The state of one I2CBB instance (R30), then what its step reads beside it. -/
structure State where
  /-- SCL_OUT (R33). -/
  sclOut : Bit
  /-- SDA_OUT (R34). -/
  sdaOut : Bit
  /-- CUR, the command word in progress or last run (R38). -/
  cur : Word
  /-- SHIFT, the byte-frame shift register (R39). -/
  shift : Byte
  /-- BITCNT (R40). -/
  bitcnt : BitVec 4
  /-- POLLCNT (R40). -/
  pollcnt : Nat
  /-- UPC (R41). -/
  upc : Upc
  /-- RES_ERR (R42). -/
  resErr : BitVec 3
  /-- RES_BIT (R42). -/
  resBit : Bit
  /-- ARB_ACC (R42). -/
  arbAcc : Bit
  /-- RX_VALID (R42). -/
  rxValid : Bit
  /-- SMP (R43). -/
  smp : Bit
  /-- STATUS (R48). -/
  status : Status
  /-- The level of the reset input (R280): an input, the model's own field (log 8). -/
  rst : Bit
  /-- N_POLL (R13): a parameter no step writes, the model's own field (log 3). -/
  nPoll : Nat
  /-- What the other instances on the same bus contribute to SCL (R262): 1 when none drives it low. An input, the model's own
  field (log 18). -/
  sclPeers : Bit
  /-- What the other instances on the same bus contribute to SDA (R262): 1 when none drives it low. An input, the model's own
  field (log 18). -/
  sdaPeers : Bit
  /-- The coming contributions of the rest of the Environment to SCL, oldest first (R37): the model's own field (log 2). -/
  sclIn : List Bit
  /-- The coming contributions of the rest of the Environment to SDA, oldest first (R37): the model's own field (log 2). -/
  sdaIn : List Bit
  /-- Which stream the free draws come from, one an instance (R262): the model's own field (log 2). -/
  freeStream : Nat
  /-- How many free draws of SCL have been taken: the model's own field (log 2). -/
  freeSclUsed : Nat
  /-- How many free draws of SDA have been taken: the model's own field (log 2). -/
  freeSdaUsed : Nat
  /-- The coming moves, oldest first: the model's own field (log 1). -/
  pending : List Event
  /-- The words the Host's reads returned, newest first: the model's own field (log 4). -/
  replies : List Word
deriving DecidableEq, Repr

/-- Why the machine stops with a fault. -/
inductive Fault where
  /-- Raised by a Host read of STATUS that would show ERR 4-7: "never written", "A model may treat a read of one as
  impossible" (R246); I11 names the treatment `fault` (log 10). Safe: no state that meets the invariant has such a code. -/
  | errCodeNeverWritten
deriving DecidableEq, Repr

/-- Why the model gives a move no meaning. -/
inductive Refusal where
  /-- Raised by `exec` for a command without a meaning yet (none is left). Safe. -/
  | notModelled (mnemonic : String)
  /-- Raised by a Host access of a size other than 2 bytes: "not defined, and a model must refuse it (no step)" (R75,
  D37; log 9). Safe. -/
  | accessSize
deriving DecidableEq, Repr

/-- STATUS after reset (R59): 0x0000. -/
def Status.reset : Status :=
  { busy := false, done := false, overrun := false, err := 0#3, arbLost := false, bit := false, rxdata := 0#8 }

/-- The state after reset (R59), the reset input released again, with no input placed (log 4). -/
def State.reset : State :=
  { sclOut := true, sdaOut := true
    cur := 0x0000#16, shift := 0x00#8, bitcnt := 0#4, pollcnt := 0, upc := .idle
    resErr := 0#3, resBit := false, arbAcc := false, rxValid := false, smp := false
    status := Status.reset
    rst := false
    nPoll := Config.nPoll 0
    sclPeers := true, sdaPeers := true
    sclIn := [], sdaIn := [], freeStream := 0, freeSclUsed := 0, freeSdaUsed := 0
    pending := [], replies := [] }

end Sys2Proof.Machine
end

