-- ==== Sys2Proof/Machine/Flags.lean ====
section
/-! DEFINITION. The flags of STATUS: the word a read returns (R48), what acceptance, a discarded write and Finish write
(R46, R47), the error codes (R242-R245), the LINES word (R57) and the reference return value (R252). -/

namespace Sys2Proof.Machine

/-- The code of an error (R242-R245). -/
def ErrCode.code : ErrCode → BitVec 3
  | .none => 0#3
  | .busConflict => 1#3
  | .stretchTimeout => 2#3
  | .illegalCmd => 3#3

/-- The STATUS word (R48): RXDATA in bits 15:8, BIT 7, ARB_LOST 6, ERR 5:3, OVERRUN 2, DONE 1, BUSY 0. -/
def Status.word (st : Status) : Word :=
  st.rxdata ++ BitVec.ofBool st.bit ++ BitVec.ofBool st.arbLost ++ st.err ++ BitVec.ofBool st.overrun
    ++ BitVec.ofBool st.done ++ BitVec.ofBool st.busy

/-- What acceptance writes in STATUS (R46): ERR, ARB_LOST, BIT and RXDATA are kept. -/
def Status.accepted (st : Status) : Status := { st with busy := true, done := false, overrun := false }

/-- What a discarded CMD write writes in STATUS (R46, R51). -/
def Status.discarded (st : Status) : Status := { st with overrun := true }

/-- What Finish writes in STATUS (R47), from the result latches; `rx` is the received byte when `RX_VALID = 1`. -/
def Status.finished (st : Status) (err : BitVec 3) (bit arb : Bit) (rx : Option Byte) : Status :=
  { busy := false
    done := true
    overrun := st.overrun
    err := err
    arbLost := arb
    bit := if err = 0#3 then bit else false
    rxdata := rx.getD st.rxdata }

/-- The LINES word (R57): bits 15:4 zero, SDA wire, SCL wire, SDA_OUT, SCL_OUT. -/
def linesWord (sdaWire sclWire sdaOut sclOut : Bit) : Word :=
  0#12 ++ BitVec.ofBool sdaWire ++ BitVec.ofBool sclWire ++ BitVec.ofBool sdaOut ++ BitVec.ofBool sclOut

/-- Whether `ret` gives the bit of STATUS for the operation (R252): RECV_BIT, SEND_BYTE and SEND_ADDR do. -/
def returnsBit : Instr → Bool
  | .recvBit | .recvAck | .sendByte _ | .sendAddr _ _ => true
  | .sendBit _ | .recvByte | .start | .stop | .release | .sendAck | .sendNack => false

/-- The reference return value of a finished command (R252). -/
def ret (st : Status) (op : Instr) : Int :=
  if st.err ≠ 0#3 then -(st.err.toNat : Int)
  else if returnsBit op then (st.bit.toNat : Int)
  else 0

end Sys2Proof.Machine
end

