-- ==== Sys2Proof/WellFormed.lean ====
section
/-! DEFINITION. Well-formed instructions: the ones a command word stands for. Operand ranges (R111) need no check, since
the operand types hold exactly the values the encoding admits. -/

namespace Sys2Proof

/-- The three alias spellings (R112): "An alias has no word of its own." -/
def Instr.isAlias : Instr → Bool
  | .recvBit | .sendBit _ | .sendByte _ | .recvByte | .start | .stop | .sendAddr _ _ | .release => false
  | .recvAck | .sendAck | .sendNack => true

/-- An instruction is well-formed when it is one of the eight commands, the only things a word decodes to (R108). An alias
is executable too, as its expansion, but no word decodes to it (log 13). -/
def Instr.wellFormed (i : Instr) : Bool := !i.isAlias

end Sys2Proof
end

