-- ==== Sys2Proof/Decode.lean ====
section
/-! DEFINITION. Decoding a command word (R110), rejecting illegal words by name (R106), and encoding (R105, R111). -/

namespace Sys2Proof

/-- Why a word is illegal (R106). -/
inductive IllegalWord where
  /-- OP is 0x0 or 0x9-0xF. -/
  | reservedOp
  /-- OP is 0x1-0x8, and a bit the row's mask covers differs from the row's match. -/
  | requiredZeroBit
deriving DecidableEq, Repr

/-- What a word decodes to: one of the commands, or ILLEGAL (R108). -/
inductive Decoded where
  | command (i : Instr)
  | illegal (why : IllegalWord)
deriving DecidableEq, Repr

/-- The OP field, bits 3:0 (R101). -/
def opField (w : Word) : BitVec 4 := w.extractLsb' 0 4

/-- The ARG field, bits 15:8 (R101); DATA of SEND_BYTE (R103). -/
def argField (w : Word) : Byte := w.extractLsb' 8 8

/-- The ID operand of SEND_ADDR, bits 14:8 (R103). -/
def idField (w : Word) : BitVec 7 := w.extractLsb' 8 7

/-- The direction bit R, bit 4 (R101, R103). -/
def rField (w : Word) : Bit := w.getLsbD 4

/-- The operand B of SEND_BIT, bit 8 (R103). -/
def bField (w : Word) : Bit := w.getLsbD 8

/-- The reason a word that matches no row is illegal (R106). -/
def illegalWhy (w : Word) : IllegalWord :=
  if opField w = 0x0#4 ∨ 0x9#4 ≤ opField w then .reservedOp else .requiredZeroBit

/-- The decode function of rule R110, line for line. -/
def decode (w : Word) : Decoded :=
  if w &&& 0xFFFF#16 = 0x0001#16 then .command .recvBit
  else if w &&& 0xFEFF#16 = 0x0002#16 then .command (.sendBit (bField w))
  else if w &&& 0x00FF#16 = 0x0003#16 then .command (.sendByte (argField w))
  else if w &&& 0xFFFF#16 = 0x0004#16 then .command .recvByte
  else if w &&& 0xFFFF#16 = 0x0005#16 then .command .start
  else if w &&& 0xFFFF#16 = 0x0006#16 then .command .stop
  else if w &&& 0x80EF#16 = 0x0007#16 then .command (.sendAddr (idField w) (rField w))
  else if w &&& 0xFFFF#16 = 0x0008#16 then .command .release
  else .illegal (illegalWhy w)

/-- The word of a command (R111); an alias assembles to the word of its expansion (R112). -/
def encode : Instr → Word
  | .recvBit => 0x0001#16
  | .sendBit b => 0x0002#16 ||| ((BitVec.ofBool b).setWidth 16 <<< 8)
  | .sendByte d => 0x0003#16 ||| (d.setWidth 16 <<< 8)
  | .recvByte => 0x0004#16
  | .start => 0x0005#16
  | .stop => 0x0006#16
  | .sendAddr id r => 0x0007#16 ||| (id.setWidth 16 <<< 8) ||| ((BitVec.ofBool r).setWidth 16 <<< 4)
  | .release => 0x0008#16
  | .recvAck => 0x0001#16
  | .sendAck => 0x0002#16
  | .sendNack => 0x0102#16

/-- What an alias stands for (R112); a command stands for itself. -/
def Instr.expand : Instr → Instr
  | .recvAck => .recvBit
  | .sendAck => .sendBit false
  | .sendNack => .sendBit true
  | .recvBit => .recvBit
  | .sendBit b => .sendBit b
  | .sendByte d => .sendByte d
  | .recvByte => .recvByte
  | .start => .start
  | .stop => .stop
  | .sendAddr id r => .sendAddr id r
  | .release => .release

/-- One row of the table of rule R105: a word selects the row when `w AND mask = mtch`. -/
structure OpcodeRow where
  mtch : Word
  mask : Word
deriving DecidableEq, Repr

/-- The table of rule R105, in its order. -/
def opcodeTable : List OpcodeRow :=
  [⟨0x0001#16, 0xFFFF#16⟩, ⟨0x0002#16, 0xFEFF#16⟩, ⟨0x0003#16, 0x00FF#16⟩, ⟨0x0004#16, 0xFFFF#16⟩,
   ⟨0x0005#16, 0xFFFF#16⟩, ⟨0x0006#16, 0xFFFF#16⟩, ⟨0x0007#16, 0x80EF#16⟩, ⟨0x0008#16, 0xFFFF#16⟩]

/-- A word selects a row (R105). -/
def OpcodeRow.selects (row : OpcodeRow) (w : Word) : Bool := w &&& row.mask == row.mtch

/-- The row of an instruction in the table of rule R105 (an alias: the row of its expansion). -/
def opcodeRow : Instr → OpcodeRow
  | .recvBit | .recvAck => ⟨0x0001#16, 0xFFFF#16⟩
  | .sendBit _ | .sendAck | .sendNack => ⟨0x0002#16, 0xFEFF#16⟩
  | .sendByte _ => ⟨0x0003#16, 0x00FF#16⟩
  | .recvByte => ⟨0x0004#16, 0xFFFF#16⟩
  | .start => ⟨0x0005#16, 0xFFFF#16⟩
  | .stop => ⟨0x0006#16, 0xFFFF#16⟩
  | .sendAddr _ _ => ⟨0x0007#16, 0x80EF#16⟩
  | .release => ⟨0x0008#16, 0xFFFF#16⟩

/-- A word is legal when it decodes to a command (R106). -/
def isLegal (w : Word) : Bool :=
  match decode w with
  | .command _ => true
  | .illegal _ => false

/-- The instruction the decoder reads from a table word: `w` is the word's number, bit 0 its least significant bit (R16),
and bits from `nbits` up are zero. `none` where the word is illegal, or is no word of 16 bits. -/
def decodeTableWord (nbits w : Nat) : Option Instr :=
  if nbits ≤ 16 ∧ w < 2 ^ nbits then
    match decode (BitVec.ofNat 16 w) with
    | .command i => some i
    | .illegal _ => none
  else none

end Sys2Proof
end

