-- ==== Sys2Proof/Machine/Operands.lean ====
section
/-! DEFINITION. The operands the engine reads during a command: fields of CUR (R102, R103, R109) and the bit of SHIFT a data
slot sends (R161). -/

namespace Sys2Proof.Machine

/-- The value of a bit a step list drives or sends, as the registers stand at that engine step. -/
def BitSrc.value (s : State) : BitSrc → Bit
  | .const v => v
  | .cmdB => bField s.cur
  | .shiftBit => s.shift.getLsbD (7 - s.bitcnt.toNat)

/-- DATA = `CUR[15:8]` (R103). -/
def curData (s : State) : Byte := argField s.cur

/-- The address byte `{ID[6:0], R}` (R74, R190, R191). -/
def addressByte (id : BitVec 7) (r : Bit) : Byte := id ++ BitVec.ofBool r

/-- The address byte of the command in CUR: `{CUR[14:8], CUR[4]}` (R190). -/
def curAddressByte (s : State) : Byte := addressByte (idField s.cur) (rField s.cur)

/-- `{SHIFT[6:0], b}`: the received bit goes in at bit 0 (R166). -/
def shiftedIn (shift : Byte) (b : Bit) : Byte := shift.extractLsb' 0 7 ++ BitVec.ofBool b

end Sys2Proof.Machine
end

