-- ==== Sys2Proof/Machine/Ops.lean ====
section
/-! DEFINITION. The named operations of the machine: the wires and their samples, the clock-stretch wait, ending a command
with an error, Finish, acceptance, reset, and the engine step with its runs. -/

namespace Sys2Proof.Machine

/-! ## Named updates of single registers -/

/-- The micro-sequence position goes to `u` (R41). -/
def setUpc (u : Upc) (s : State) : State := { s with upc := u }

/-- POLLCNT goes to `n` (R40). -/
def setPollcnt (n : Nat) (s : State) : State := { s with pollcnt := n }

/-- SMP goes to `b` (R43). -/
def setSmp (b : Bit) (s : State) : State := { s with smp := b }

/-- `SetSCL(v)` (R19, R33). -/
def setScl (v : Bit) (s : State) : State := { s with sclOut := v }

/-- `SetSDA(v)` (R19, R34). -/
def setSda (v : Bit) (s : State) : State := { s with sdaOut := v }

/-! ## Wires and samples (R36, R37, R133) -/

/-- The Environment's contribution to SCL at the next sample: the AND of what the other instances on the bus (R262) and the
rest of it contribute (R37). -/
def sclEnv (s : State) : Bit :=
  s.sclPeers &&
    match s.sclIn with
    | b :: _ => b
    | [] => Config.freeScl s.freeStream s.freeSclUsed

/-- The Environment's contribution to SDA at the next sample: the AND of what the other instances on the bus (R262) and the
rest of it contribute (R37). -/
def sdaEnv (s : State) : Bit :=
  s.sdaPeers &&
    match s.sdaIn with
    | b :: _ => b
    | [] => Config.freeSda s.freeStream s.freeSdaUsed

/-- A sample of SCL has been taken: the next one is a new draw (R37). -/
def drawScl (s : State) : State :=
  { s with
    sclIn := s.sclIn.tail
    freeSclUsed := if s.sclIn.isEmpty then s.freeSclUsed + 1 else s.freeSclUsed }

/-- A sample of SDA has been taken: the next one is a new draw (R37). -/
def drawSda (s : State) : State :=
  { s with
    sdaIn := s.sdaIn.tail
    freeSdaUsed := if s.sdaIn.isEmpty then s.freeSdaUsed + 1 else s.freeSdaUsed }

/-- The SCL wire level at the next sample: `SCL_OUT AND scl_env` (R36). -/
def sclWire (s : State) : Bit := s.sclOut && sclEnv s

/-- The SDA wire level at the next sample: `SDA_OUT AND sda_env` (R36). -/
def sdaWire (s : State) : Bit := s.sdaOut && sdaEnv s

/-- `ReadSDA()`: the SDA wire level goes to SMP (R133). -/
def readSda (s : State) : State := setSmp (sdaWire s) (drawSda s)

/-! ## Errors, Finish, acceptance, reset -/

/-- `raise E` (R241): the one way a command ends with an error. RES_ERR holds the code, the next engine step is Finish, and
nothing is undone. There is nothing to return to: `finish` ends the command, and the next acceptance clears RES_ERR
(R254). -/
def raise (e : ErrCode) (s : State) : State := { s with resErr := e.code, upc := .fin }

/-- Finish (R47). -/
def finish (s : State) : State :=
  { s with
    status := s.status.finished s.resErr s.resBit s.arbAcc (if s.rxValid then some s.shift else none)
    upc := .idle }

/-- The position at the first of some steps: FIN when there are none (R41). -/
def Upc.ofList : StepList → Upc
  | [] => .fin
  | st :: rest => .run st rest

/-- Acceptance of the word `w` while `BUSY = 0` (R46): `some l` is the step list decode selects, `none` is ILLEGAL, whose
only step is Finish with RES_ERR = 3 (R110, R245; log 6). -/
def accept (w : Word) (selected : Option StepList) (s : State) : State :=
  let taken : State :=
    { s with
      cur := w
      resErr := 0#3, resBit := false, arbAcc := false, rxValid := false
      bitcnt := 0#4, pollcnt := 0
      status := s.status.accepted }
  match selected with
  | some l => setUpc (Upc.ofList l) taken
  | none => raise .illegalCmd taken

/-- A CMD write discarded because `BUSY = 1` (R46, R51). -/
def discard (s : State) : State := { s with status := s.status.discarded }

/-- A word is offered as a command (R46). While the reset input is asserted every register stays at its reset value, so
nothing is accepted (R280, log 8). -/
def offer (w : Word) (selected : Option StepList) (s : State) : State :=
  if s.rst then s
  else if s.status.busy then discard s
  else accept w selected s

/-- Every register of the I2CBB at its reset value, both lines in the same step (R59, R280, R282). -/
def resetRegisters (s : State) : State :=
  { s with
    sclOut := true, sdaOut := true
    cur := 0x0000#16, shift := 0x00#8, bitcnt := 0#4, pollcnt := 0, upc := .idle
    resErr := 0#3, resBit := false, arbAcc := false, rxValid := false, smp := false
    status := Status.reset }

/-- The reset input goes to a level: while it is asserted and at the moment it is released every register holds its reset
value (R280). A release of a pin that was not asserted changes nothing. -/
def setRst (level : Bit) (s : State) : State :=
  if level || s.rst then resetRegisters { s with rst := level } else s

/-! ## The engine step -/

/-- One line of work of the pseudocode that costs no engine step (R45). -/
def Work.apply (s : State) : Work → State
  | .loadData => { s with shift := curData s }
  | .loadAddr => { s with shift := curAddressByte s }
  | .startWait => setPollcnt 0 s
  | .checkArb v => if v.value s && !s.smp then { s with arbAcc := true } else s
  | .checkIdle => if s.smp then s else raise .busConflict s
  | .returnBit => { s with resBit := s.smp }
  | .shiftIn => { s with shift := shiftedIn s.shift s.smp }
  | .nextBit => { s with bitcnt := s.bitcnt + 1#4 }
  | .markReceived => { s with rxValid := true }

/-- Some work, in order. -/
def doWork (ws : List Work) (s : State) : State := ws.foldl Work.apply s

/-- One sample of `WaitSCLHigh()` (R134): the wait is over when the wire reads high; after `N_POLL` low samples it is
STRETCH_TIMEOUT (R135); otherwise the next engine step is another sample. -/
def pollScl (st : MicroStep) (rest : StepList) (s : State) : State :=
  let sampled := drawScl (setPollcnt (s.pollcnt + 1) s)
  if sclWire s then doWork st.after sampled
  else if s.pollcnt + 1 < s.nPoll then setUpc (.run { st with before := [] } rest) sampled
  else raise .stretchTimeout sampled

/-- The engine step at one entry of a step list (R45). The position moves on first, so that a `raise` in the work after the
primitive sends it to FIN. -/
def microStep (st : MicroStep) (rest : StepList) (s : State) : State :=
  let ready := setUpc (Upc.ofList rest) (doWork st.before s)
  match st.prim with
  | .setScl v => doWork st.after (setScl v ready)
  | .setSda v => doWork st.after (setSda (v.value ready) ready)
  | .settle => doWork st.after ready
  | .readSda => doWork st.after (readSda ready)
  | .pollScl => pollScl st rest ready

/-- One engine step (R45): one primitive, or Finish; none while idle (R264), and none while the reset input is asserted
(R280). -/
def engineStep (s : State) : State :=
  if s.rst then s
  else
    match s.upc with
    | .idle => s
    | .fin => finish s
    | .run st rest => microStep st rest s

/-- `n` engine steps one after another. -/
def engineRun : Nat → State → State
  | 0, s => s
  | n + 1, s => engineRun n (engineStep s)

/-- The most engine steps one entry of a step list can take: `N_POLL` for a wait (R134). -/
def MicroStep.cost (nPoll : Nat) (st : MicroStep) : Nat :=
  match st.prim with
  | .pollScl => max 1 nPoll
  | .setScl _ | .setSda _ | .settle | .readSda => 1

/-- The most engine steps before the engine is idle, Finish included (R302). -/
def Upc.cost (nPoll : Nat) : Upc → Nat
  | .idle => 0
  | .fin => 1
  | .run st rest => (((st :: rest).map (MicroStep.cost nPoll)).foldr (· + ·) 0) + 1

/-- The Engine runs until it is idle (R302: it always gets there). -/
def runToIdle (s : State) : State := engineRun (s.upc.cost s.nPoll) s

/-- A command from its offer to the Engine's idleness: the source's "every operation runs to completion on the calling
execution context" (R31), R212's `Exec`. -/
def runCommand (w : Word) (selected : Option StepList) (s : State) : State := runToIdle (offer w selected s)

/-! ## Step lists -/

/-- A step list entry that is a primitive alone. -/
def op (p : Prim) : MicroStep := { prim := p }

/-- A step list entry with work after its primitive. -/
def opThen (p : Prim) (ws : List Work) : MicroStep := { prim := p, after := ws }

/-- `WaitSCLHigh()` (R134), with `raise STRETCH_TIMEOUT` on TIMEOUT (R135). -/
def waitSclHigh : MicroStep := { before := [.startWait], prim := .pollScl }

/-- A step list with one line of work before its first step. -/
def loading (w : Work) : StepList → StepList
  | [] => []
  | st :: rest => { st with before := w :: st.before } :: rest

end Sys2Proof.Machine
end

