-- ==== Sys2Proof/Machine/BitEngine.lean ====
section
/-! DEFINITION. The Bit Transfer Engine (40_bit_engine.md): the receive-bit and send-bit step lists, RECV_BIT, SEND_BIT and
the acknowledge aliases. -/

namespace Sys2Proof.Machine

/-- `RecvBitSeq()` (R137); `ret` is what the caller does with the bit returned in SMP. -/
def recvBitSeq (ret : List Work) : StepList :=
  [op (.setSda (.const true)), op .settle, op (.setScl true), waitSclHigh, op .readSda, op .settle,
   opThen (.setScl false) ret]

/-- `SendBitSeq(v)` (R138), with the arbitration read-back (R140); `done` is what the caller does next. -/
def sendBitSeq (v : BitSrc) (done : List Work) : StepList :=
  [op (.setSda v), op (.setScl true), waitSclHigh, opThen .readSda [.checkArb v], op .settle,
   opThen (.setScl false) done]

/-- The step list of RECV_BIT (R137). -/
def recvBitList : StepList := recvBitSeq [.returnBit]

/-- The step list of SEND_BIT (R139). -/
def sendBitList : StepList := sendBitSeq .cmdB []

/-- RECV_BIT (R137). -/
def execRecvBit (s : State) : Host.Outcome State Fault Refusal :=
  .next (runCommand (encode .recvBit) (some recvBitList) s)

/-- SEND_BIT B (R139). -/
def execSendBit (b : Bit) (s : State) : Host.Outcome State Fault Refusal :=
  .next (runCommand (encode (.sendBit b)) (some sendBitList) s)

/-- RECV_ACK is RECV_BIT (R141). -/
def execRecvAck (s : State) : Host.Outcome State Fault Refusal :=
  .next (runCommand (encode .recvAck) (some recvBitList) s)

/-- SEND_ACK is SEND_BIT 0 (R142). -/
def execSendAck (s : State) : Host.Outcome State Fault Refusal :=
  .next (runCommand (encode .sendAck) (some sendBitList) s)

/-- SEND_NACK is SEND_BIT 1 (R143). -/
def execSendNack (s : State) : Host.Outcome State Fault Refusal :=
  .next (runCommand (encode .sendNack) (some sendBitList) s)

end Sys2Proof.Machine
end

