-- ==== Sys2Proof/Machine/ByteEngine.lean ====
section
/-! DEFINITION. The Byte Transfer Engine (41_byte_engine.md): the byte frame, SEND_BYTE and RECV_BYTE. -/

namespace Sys2Proof.Machine

/-- `SendFrame()` (R161): eight data slots sent from SHIFT, most significant bit first, then the acknowledge slot. -/
def sendFrame : StepList :=
  (List.replicate 8 (sendBitSeq .shiftBit [.nextBit])).flatten ++ recvBitSeq [.returnBit]

/-- The step list of SEND_BYTE (R161). -/
def sendByteList : StepList := loading .loadData sendFrame

/-- The step list of RECV_BYTE (R166): eight data slots shifted into SHIFT, then ACK is sent. `RX_VALID <- 1` is done with the engine
step after it, `SetSDA(0)` of the acknowledge slot: the spec leaves open which step it goes with (R45). DEDUCED (log 7). -/
def recvByteList : StepList :=
  (List.replicate 8 (recvBitSeq [.shiftIn, .nextBit])).flatten
    ++ loading .markReceived (sendBitSeq (.const false) [])

/-- SEND_BYTE DATA (R161). -/
def execSendByte (data : Byte) (s : State) : Host.Outcome State Fault Refusal :=
  .next (runCommand (encode (.sendByte data)) (some sendByteList) s)

/-- RECV_BYTE (R166). -/
def execRecvByte (s : State) : Host.Outcome State Fault Refusal :=
  .next (runCommand (encode .recvByte) (some recvByteList) s)

end Sys2Proof.Machine
end

