-- ==== Sys2Proof/Machine/BusConditions.lean ====
section
/-! DEFINITION. Bus conditions, address frame and line release (42_bus_conditions.md): START, STOP, SEND_ADDR, RELEASE. -/

namespace Sys2Proof.Machine

/-- The step list of START (R181). -/
def startList : StepList :=
  [opThen .readSda [.checkIdle], op (.setSda (.const false)), op .settle, op (.setScl false)]

/-- The step list of STOP (R185). -/
def stopList : StepList :=
  [op (.setSda (.const false)), op .settle, op (.setScl true), waitSclHigh, op .settle, op (.setSda (.const true))]

/-- The step list of SEND_ADDR (R190). -/
def sendAddrList : StepList := loading .loadAddr sendFrame

/-- The step list of RELEASE (R195): SCL first, then SDA. -/
def releaseList : StepList := [op (.setScl true), op (.setSda (.const true))]

/-- START (R181). -/
def execStart (s : State) : Host.Outcome State Fault Refusal :=
  .next (runCommand (encode .start) (some startList) s)

/-- STOP (R185). -/
def execStop (s : State) : Host.Outcome State Fault Refusal :=
  .next (runCommand (encode .stop) (some stopList) s)

/-- SEND_ADDR ID, R (R190). -/
def execSendAddr (id : BitVec 7) (r : Bit) (s : State) : Host.Outcome State Fault Refusal :=
  .next (runCommand (encode (.sendAddr id r)) (some sendAddrList) s)

/-- RELEASE (R195). -/
def execRelease (s : State) : Host.Outcome State Fault Refusal :=
  .next (runCommand (encode .release) (some releaseList) s)

end Sys2Proof.Machine
end

