-- ==== Sys2Proof/Machine/Dispatch.lean ====
section
/-! DEFINITION. One arm per instruction: the command offered, and the Engine run until it is idle. -/

namespace Sys2Proof.Machine

def exec (i : Instr) (s : State) : Host.Outcome State Fault Refusal :=
  match i with
  -- 40_bit_engine.md
  | .recvBit => Sys2Proof.Machine.execRecvBit s
  | .sendBit b => Sys2Proof.Machine.execSendBit b s
  -- 41_byte_engine.md
  | .sendByte data => Sys2Proof.Machine.execSendByte data s
  | .recvByte => Sys2Proof.Machine.execRecvByte s
  -- 42_bus_conditions.md
  | .start => Sys2Proof.Machine.execStart s
  | .stop => Sys2Proof.Machine.execStop s
  | .sendAddr id r => Sys2Proof.Machine.execSendAddr id r s
  | .release => Sys2Proof.Machine.execRelease s
  -- the aliases of 30_encoding.md rule R112
  | .recvAck => Sys2Proof.Machine.execRecvAck s
  | .sendAck => Sys2Proof.Machine.execSendAck s
  | .sendNack => Sys2Proof.Machine.execSendNack s

end Sys2Proof.Machine
end

