-- ==== Sys2Proof/Machine/HostPort.lean ====
section
/-! DEFINITION. The host register port (20_memory.md): reads and writes of CMD, STATUS, LINES and the empty offset, the
selection of a step list by decode (R110), and the events of the agents that are no whole command. -/

namespace Sys2Proof.Machine

/-- The step list a command selects (R104, R110). -/
def stepListOf : Instr → StepList
  | .recvBit | .recvAck => recvBitList
  | .sendBit _ | .sendAck | .sendNack => sendBitList
  | .sendByte _ => sendByteList
  | .recvByte => recvByteList
  | .start => startList
  | .stop => stopList
  | .sendAddr _ _ => sendAddrList
  | .release => releaseList

/-- What decode selects for a word (R110): a step list, or ILLEGAL. -/
def selectedBy (w : Word) : Option StepList :=
  match decode w with
  | .command i => some (stepListOf i)
  | .illegal _ => none

/-- The CMD write as one atomic Host step (R46, R78): the word is accepted or discarded as a whole. -/
def offerWord (w : Word) (s : State) : State := offer w (selectedBy w) s

/-- An illegal word offered, and the Engine run until idle: Finish with ERR = 3 (R106, R245). -/
def runIllegal (w : Word) (s : State) : State := runCommand w none s

/-- The Host gets the word a read returns. -/
def reply (w : Word) (s : State) : State := { s with replies := w :: s.replies }

/-- A read of LINES (R57): the outputs, and a fresh draw of each wire. -/
def readLines (s : State) : State :=
  reply (linesWord (sdaWire s) (sclWire s) s.sdaOut s.sclOut) (drawSda (drawScl s))

/-- `MemRead(off, size)` (R18, R44, R48, R57, R58). -/
def hostRead (off : BitVec 2) (size : Nat) (s : State) : Host.Outcome State Fault Refusal :=
  if size ≠ 2 then .refused .accessSize
  else if off = 0x0#2 then .next (reply s.cur s)
  else if off = 0x1#2 then
    if 4#3 ≤ s.status.err then .fault .errCodeNeverWritten else .next (reply s.status.word s)
  else if off = 0x2#2 then .next (readLines s)
  else .next (reply 0x0000#16 s)

/-- `MemWrite(off, size, v)` (R18, R44, R48, R57, R58): only CMD takes a write. -/
def hostWrite (off : BitVec 2) (size : Nat) (v : Word) (s : State) : Host.Outcome State Fault Refusal :=
  if size ≠ 2 then .refused .accessSize
  else if off = 0x0#2 then .next (offerWord v s)
  else .next s

end Sys2Proof.Machine
end

