-- ==== Sys2Proof/Machine/Step.lean ====
section
/-! DEFINITION. One step of the machine: the next move in the total order of rule R80, taken from `State.pending`. -/

namespace Sys2Proof.Machine

/-- One move. A command the Host offers and waits for (R212) is fetched here: its word is decoded once (R109) and run. -/
def takeEvent (e : Event) (s : State) : Host.Outcome State Fault Refusal :=
  match e with
  | .command w =>
    match decode w with
    | .command i => exec i s
    | .illegal _ => .next (runIllegal w s)
  | .write off size v => hostWrite off size v s
  | .read off size => hostRead off size s
  | .engine => .next (engineStep s)
  | .rst level => .next (setRst level s)

/-- One step: the oldest pending move; with none pending the Engine moves (weak fairness, R45), and an idle Engine holds
every register (R264; log 11). -/
def step (s : State) : Host.Outcome State Fault Refusal :=
  match s.pending with
  | [] => .next (engineStep s)
  | e :: later => takeEvent e { s with pending := later }

/-- The word offered by the Host as the very next move, to an engine that accepts it: the reset input released and no
command in progress (R46; log 12). -/
def State.withFetchWord (s : State) (nbits w : Nat) : State :=
  { s with
    rst := false
    upc := .idle
    status := { s.status with busy := false }
    pending := .command (BitVec.ofNat 16 (w % 2 ^ nbits)) :: s.pending }

end Sys2Proof.Machine
end

