-- ==== Sys2Proof/Machine/Assembler.lean ====
section
/-! DEFINITION. The assembler syntax (R111, R112): one command a line, a mnemonic, then its operands separated by commas; a
`;` starts a comment; numbers are decimal, or hex with `0x`. Text is a list of characters. -/

namespace Sys2Proof.Machine

/-- What one line assembles to. -/
inductive Line where
  /-- No command: blank, or a comment only. R111 says "One command per line" and is silent on such a line; that a program may
  hold one is the model's choice. DESIGN CHOICE (log 20). -/
  | blank
  | command (i : Instr)
  /-- "An operand out of range is an assembly error, never a truncation" (R111); so is any other text. -/
  | error
deriving DecidableEq, Repr

/-- White space within a line: DESIGN CHOICE (log 20). -/
def isBlankChar (c : Char) : Bool := c == ' ' || c == '\t' || c == '\r'

/-- Text without white space at either end. -/
def trimmed (cs : List Char) : List Char :=
  ((cs.dropWhile isBlankChar).reverse.dropWhile isBlankChar).reverse

/-- The pieces of a text between separators. -/
def piecesAt (sep : Char) : List Char → List (List Char)
  | [] => [[]]
  | c :: cs =>
    match piecesAt sep cs with
    | [] => [[]]
    | p :: ps => if c == sep then [] :: p :: ps else (c :: p) :: ps

/-- The value of a digit in a base of at most 16. -/
def digitValue (base : Nat) (c : Char) : Option Nat :=
  let v :=
    if '0'.toNat ≤ c.toNat && c.toNat ≤ '9'.toNat then some (c.toNat - '0'.toNat)
    else if 'a'.toNat ≤ c.toNat && c.toNat ≤ 'f'.toNat then some (c.toNat - 'a'.toNat + 10)
    else if 'A'.toNat ≤ c.toNat && c.toNat ≤ 'F'.toNat then some (c.toNat - 'A'.toNat + 10)
    else none
  v.bind fun n => if n < base then some n else none

/-- The value of some digits, the most significant first. -/
def digitsValue (base : Nat) (cs : List Char) : Option Nat :=
  if cs.isEmpty then none
  else cs.foldl (fun acc c => acc.bind fun n => (digitValue base c).map (n * base + ·)) (some 0)

/-- A number, decimal or hex with `0x` (R111). -/
def numberValue : List Char → Option Nat
  | '0' :: 'x' :: cs => digitsValue 16 cs
  | cs => digitsValue 10 cs

/-- A number below a bound. -/
def numberBelow (bound : Nat) (cs : List Char) : Option Nat :=
  (numberValue cs).bind fun n => if n < bound then some n else none

/-- The direction operand of SEND_ADDR (R111). -/
def directionValue : List Char → Option Bit
  | ['R'] => some true
  | ['W'] => some false
  | _ => none

/-- The command of a mnemonic and its operands (R111, R112). -/
def commandOf (mnemonic : List Char) (operands : List (List Char)) : Option Instr :=
  match mnemonic, operands with
  | ['R', 'E', 'C', 'V', '_', 'B', 'I', 'T'], [] => some .recvBit
  | ['S', 'E', 'N', 'D', '_', 'B', 'I', 'T'], [b] => (numberBelow 2 b).map fun n => .sendBit (n == 1)
  | ['S', 'E', 'N', 'D', '_', 'B', 'Y', 'T', 'E'], [d] => (numberBelow 256 d).map fun n => .sendByte (BitVec.ofNat 8 n)
  | ['R', 'E', 'C', 'V', '_', 'B', 'Y', 'T', 'E'], [] => some .recvByte
  | ['S', 'T', 'A', 'R', 'T'], [] => some .start
  | ['S', 'T', 'O', 'P'], [] => some .stop
  | ['S', 'E', 'N', 'D', '_', 'A', 'D', 'D', 'R'], [id, r] =>
    (numberBelow 128 id).bind fun n => (directionValue r).map fun r => .sendAddr (BitVec.ofNat 7 n) r
  | ['R', 'E', 'L', 'E', 'A', 'S', 'E'], [] => some .release
  | ['R', 'E', 'C', 'V', '_', 'A', 'C', 'K'], [] => some .recvAck
  | ['S', 'E', 'N', 'D', '_', 'A', 'C', 'K'], [] => some .sendAck
  | ['S', 'E', 'N', 'D', '_', 'N', 'A', 'C', 'K'], [] => some .sendNack
  | _, _ => none

/-- The operands of a command: none for an empty text, else the pieces between commas. -/
def operandsOf (cs : List Char) : List (List Char) :=
  if cs.isEmpty then [] else (piecesAt ',' cs).map trimmed

/-- One line of assembler text (R111). -/
def assembleLine (cs : List Char) : Line :=
  let text := trimmed (cs.takeWhile (· != ';'))
  if text.isEmpty then .blank
  else
    let mnemonic := text.takeWhile (!isBlankChar ·)
    match commandOf mnemonic (operandsOf (trimmed (text.drop mnemonic.length))) with
    | some i => .command i
    | none => .error

/-- The words of some lines, or `none` when a line is an assembly error. A line without a command is skipped and gives no word:
DESIGN CHOICE (log 20). -/
def assembleLines : List (List Char) → Option (List Word)
  | [] => some []
  | l :: ls =>
    match assembleLine l with
    | .blank => assembleLines ls
    | .command i => (assembleLines ls).map (encode i :: ·)
    | .error => none

/-- A command program (R111): a list of lines. -/
def assemble (text : List Char) : Option (List Word) := assembleLines (piecesAt '\n' text)

end Sys2Proof.Machine
end

