-- ==== Sys2Proof/Machine/HostProcedures.lean ====
section
/-! DEFINITION. The host transaction procedures (45_host_transactions.md): `Exec`, the single-operation wrappers, `transfer`,
`addr_write` and `addr_read`, as functions that drive one I2CBB through its register port (R210). -/

namespace Sys2Proof.Machine

/-- A Host's sequential code in progress: the I2CBB it drives, and the command words it has issued, in order. -/
structure HostRun where
  machine : State
  issued : List Word
deriving DecidableEq, Repr

/-- `Exec(w)` (R212): offer the word, wait for `BUSY = 0`, return STATUS. The reads of STATUS have no side effect (R77), so
the wait is the Engine running until idle. -/
def hostExec (w : Word) (h : HostRun) : Status × HostRun :=
  let after := runToIdle (offerWord w h.machine)
  (after.status, { machine := after, issued := h.issued ++ [w] })

/-- A command program (R111): the words one at a time, each after the one before it has finished. -/
def hostProgram (ws : List Word) (h : HostRun) : HostRun := ws.foldl (fun h w => (hostExec w h).2) h

/-- A wrapper that returns `ret` of one command (R213, R252). -/
def wrapped (op : Instr) (h : HostRun) : Int × HostRun :=
  let (st, h) := hostExec (encode op) h
  (ret st op, h)

/-- `send_start()` (R213). -/
def hostSendStart (h : HostRun) : Int × HostRun := wrapped .start h

/-- `send_stop()` (R213). -/
def hostSendStop (h : HostRun) : Int × HostRun := wrapped .stop h

/-- `send_addr(read_flag)` (R213). -/
def hostSendAddr (p : HostParams) (readFlag : Bit) (h : HostRun) : Int × HostRun :=
  wrapped (.sendAddr p.slaveId readFlag) h

/-- `send_byte(b)` (R213). -/
def hostSendByte (b : Byte) (h : HostRun) : Int × HostRun := wrapped (.sendByte b) h

/-- `recv_bit()` and `recv_ack()` (R213). -/
def hostRecvBit (h : HostRun) : Int × HostRun := wrapped .recvBit h

/-- `send_bit(v)`; `send_ack` is `send_bit(0)` and `send_nack` is `send_bit(1)` (R213). -/
def hostSendBit (v : Bit) (h : HostRun) : Int × HostRun := wrapped (.sendBit v) h

/-- `MemRead(0x2, 2)`, a read of LINES: two fresh samples (R57, R77). -/
def hostReadLines (h : HostRun) : Word × HostRun :=
  (linesWord (sdaWire h.machine) (sclWire h.machine) h.machine.sdaOut h.machine.sclOut,
   { h with machine := drawSda (drawScl h.machine) })

/-- `recv_byte(&out)` (R213): `out` is written on success. With I12's parameter it is written too when the acknowledge slot
timed out, the one RECV_BYTE error that leaves SDA driven low (R253): the Host finds that out through the port (R210), with one
read of LINES after the timeout, whose bit 1 is SDA_OUT (R244). That it reads LINES for this is the model's choice. DESIGN CHOICE
(log 17). -/
def hostRecvByte (p : HostParams) (out : Byte) (h : HostRun) : Int × Byte × HostRun :=
  let (st, h) := hostExec (encode .recvByte) h
  if st.err = 0#3 then (ret st .recvByte, st.rxdata, h)
  else if p.outOnAckTimeout && st.err == ErrCode.stretchTimeout.code then
    let (lines, h) := hostReadLines h
    (ret st .recvByte, if lines.getLsbD 1 then out else st.rxdata, h)
  else (ret st .recvByte, out, h)

/-! ## Sequences the rules describe for a Host -/

/-- The bus looks idle: LINES bits 3:2 read 0b11 (R285). -/
def linesIdle (lines : Word) : Bit := lines.extractLsb' 2 2 == 0b11#2

/-- Boot (R285, step 2): read LINES until the bus looks idle. R285 gives no bound: the model looks at most `tries` times. DESIGN
CHOICE (log 25). -/
def hostAwaitIdle : Nat → HostRun → Bool × HostRun
  | 0, h => (false, h)
  | tries + 1, h =>
    let (lines, h) := hostReadLines h
    if linesIdle lines then (true, h) else hostAwaitIdle tries h

/-- Some RECV_BIT commands, the bits assembled first bit highest (R168). R168 gives no error path: that the first error ends the
sequence, with its return value and the bits assembled so far, is the model's choice. DESIGN CHOICE (log 25). -/
def hostRecvBits : Nat → Byte → HostRun → Option Int × Byte × HostRun
  | 0, byte, h => (none, byte, h)
  | n + 1, byte, h =>
    let (st, h) := hostExec (encode .recvBit) h
    if st.err ≠ 0#3 then (some (ret st .recvBit), byte, h) else hostRecvBits n (shiftedIn byte st.bit) h

/-- A byte read that ends with a NACK: 8 RECV_BIT, then SEND_NACK (R168). R168 gives no error path: when a RECV_BIT times out, the
model issues nothing more (no SEND_NACK) and returns that command's `ret` with the partly assembled byte; when SEND_NACK times
out, its `ret` with the whole byte. DESIGN CHOICE (log 25). -/
def hostRecvByteNack (h : HostRun) : Int × Byte × HostRun :=
  match hostRecvBits 8 0#8 h with
  | (some e, byte, h) => (e, byte, h)
  | (none, byte, h) =>
    let (r, h) := hostSendBit true h
    (r, byte, h)

/-- A repeated start (R223): RELEASE, confirm the SCL wire is high (LINES bit 2), START. R223 does not say what the Host does when
it is not high: the model looks once, issues no START and answers `none`. DESIGN CHOICE (log 25). -/
def hostRepeatedStart (h : HostRun) : Option Int × HostRun :=
  let (_, h) := wrapped .release h
  let (lines, h) := hostReadLines h
  if lines.getLsbD 2 then
    let (r, h) := hostSendStart h
    (some r, h)
  else (none, h)

/-- Freeing a stuck slave (R286): RECV_BIT until the SDA wire reads high (LINES bit 3), then STOP. R286 does not say what the Host
does when a RECV_BIT times out, or when SDA stays low: the model drops the error and goes on looking and pulsing, looks before
each of at most `pulses` pulses and not after the last of them, and then answers `none` with no STOP. DESIGN CHOICE (log 25). -/
def hostRecover : Nat → HostRun → Option Int × HostRun
  | 0, h => (none, h)
  | pulses + 1, h =>
    let (lines, h) := hostReadLines h
    if lines.getLsbD 3 then
      let (r, h) := hostSendStop h
      (some r, h)
    else
      let (_, h) := hostRecvBit h
      hostRecover pulses h

/-! ## transfer -/

/-- The action flag bits (R211, D26); bits above bit 3 have no effect. -/
def fStart : Nat := 0x1
/-- `F_STOP` (R211). -/
def fStop : Nat := 0x2
/-- `F_READ` (R211). -/
def fRead : Nat := 0x4
/-- `F_WRITE` (R211). -/
def fWrite : Nat := 0x8

/-- `flags AND f` is not zero. -/
def hasFlag (flags f : Nat) : Bool := flags &&& f != 0

/-- `E_NACK` (R215, D32). -/
def eNack : Int := -4

/-- A phase of a transaction failed with the return value, or went on. -/
abbrev Failure := Option Int

/-- One command of a transaction: its error as `ret`, then, where it returns an acknowledge bit, `NACK_ABORTS` (R215). -/
def phase (p : HostParams) (op : Instr) (acknowledged : Bool) (h : HostRun) : Failure × Status × HostRun :=
  let (st, h) := hostExec (encode op) h
  if st.err ≠ 0#3 then (some (ret st op), st, h)
  else if acknowledged && p.nackAborts && st.bit then (some eNack, st, h)
  else (none, st, h)

/-- START and the address frame (R215). -/
def startPhase (p : HostParams) (flags : Nat) (h : HostRun) : Failure × HostRun :=
  match phase p .start false h with
  | (some e, _, h) => (some e, h)
  | (none, _, h) =>
    match phase p (.sendAddr p.slaveId (hasFlag flags fRead)) true h with
    | (e, _, h) => (e, h)

/-- The data bytes (R215): each is sent when WRITE is set, and received into its place otherwise. -/
def dataPhase (p : HostParams) (write : Bool) : List Byte → HostRun → Failure × List Byte × HostRun
  | [], h => (none, [], h)
  | b :: later, h =>
    match phase p (if write then .sendByte b else .recvByte) write h with
    | (some e, _, h) => (some e, b :: later, h)
    | (none, st, h) =>
      match dataPhase p write later h with
      | (e, rest, h) => (e, (if write then b else st.rxdata) :: rest, h)

/-- What `transfer` returns, the buffer after it, and the Host's run. -/
structure Transferred where
  ret : Int
  buf : List Byte
  run : HostRun
deriving DecidableEq, Repr

/-- `transfer(buf, size, flags)` (R215) with `size` the length of `buf` (log 17). -/
def transfer (p : HostParams) (buf : List Byte) (flags : Nat) (h : HostRun) : Transferred :=
  match (if hasFlag flags fStart then startPhase p flags h else (none, h)) with
  | (some e, h) => { ret := e, buf := buf, run := h }
  | (none, h) =>
    match dataPhase p (hasFlag flags fWrite) buf h with
    | (some e, buf, h) => { ret := e, buf := buf, run := h }
    | (none, moved, h) =>
      if hasFlag flags fStop then
        match phase p .stop false h with
        | (some e, _, h) => { ret := e, buf := moved, run := h }
        | (none, _, h) => { ret := (buf.length : Int), buf := moved, run := h }
      else { ret := (buf.length : Int), buf := moved, run := h }

/-- The sub-address bytes, in the order sent (R220). -/
def subaddr (p : HostParams) (addr : BitVec 32) : List Byte :=
  (List.range p.addrBytes.val).map fun j =>
    match p.subaddrOrder with
    | .msbFirst => addr.extractLsb' (8 * (p.addrBytes.val - 1 - j)) 8
    | .lsbFirst => addr.extractLsb' (8 * j) 8

/-- `addr_write(addr, buf, size)` (R221). -/
def addrWrite (p : HostParams) (addr : BitVec 32) (buf : List Byte) (h : HostRun) : Transferred :=
  let first := transfer p (subaddr p addr) (fStart ||| fWrite) h
  if first.ret < 0 then { first with buf := buf }
  else transfer p buf (fWrite ||| fStop) first.run

/-- `addr_read(addr, buf, size)` (R222): the second phase receives (INTENDED), or sends the buffer (REFERENCE). -/
def addrRead (p : HostParams) (addr : BitVec 32) (buf : List Byte) (h : HostRun) : Transferred :=
  let first := transfer p (subaddr p addr) (fStart ||| fWrite) h
  if first.ret < 0 then { first with buf := buf }
  else
    match p.addrReadMode with
    | .reference => transfer p buf (fWrite ||| fStop) first.run
    | .intended => transfer p buf (fRead ||| fStop) first.run

end Sys2Proof.Machine
end

