-- ==== Sys2Proof/Machine/Trace.lean ====
section
/-! DEFINITION. What a run can be observed to do (R310): the engine steps in the notation of 95_test_vectors.md, the outputs
after each, the samples and the STATUS after Finish; and the start and stop conditions on the wire (R180). -/

namespace Sys2Proof.Machine

/-- One engine step of a trace (95_test_vectors.md, Notation). -/
inductive Token where
  /-- `c0`, `c1`: `SetSCL(v)`. -/
  | c (v : Bit)
  /-- `d0`, `d1`: `SetSDA(v)`. -/
  | d (v : Bit)
  /-- `s`: `Settle()`. -/
  | s
  /-- `p0`, `p1`: `PollSCL()` returning the level. -/
  | p (level : Bit)
  /-- `r0`, `r1`: `ReadSDA()` returning the level. -/
  | r (level : Bit)
  /-- `F`: Finish. -/
  | f
deriving DecidableEq, Repr

/-- The token of the engine step that comes next; `none` when the Engine takes none (R45, R264, R280). -/
def nextToken (s : State) : Option Token :=
  if s.rst then none
  else
    match s.upc with
    | .idle => none
    | .fin => some .f
    | .run st _ =>
      match st.prim with
      | .setScl v => some (.c v)
      | .setSda v => some (.d (v.value (doWork st.before s)))
      | .settle => some .s
      | .pollScl => some (.p (sclWire s))
      | .readSda => some (.r (sdaWire s))

/-- The trace of at most `n` engine steps. -/
def trace : Nat → State → List Token
  | 0, _ => []
  | n + 1, s =>
    match nextToken s with
    | none => []
    | some t => t :: trace n (engineStep s)

/-- The trace of the engine steps left until the Engine is idle. -/
def traceToIdle (s : State) : List Token := trace (s.upc.cost s.nPoll) s

/-- How many engine steps are left until the Engine is idle (R144, R301). -/
def stepsToIdle (s : State) : Nat := (traceToIdle s).length

/-- One thing a run can be observed to do (R310). -/
inductive Seen where
  /-- The line outputs after an engine step. -/
  | lines (sclOut sdaOut : Bit)
  /-- The SCL wire level at a sample. -/
  | sclSample (level : Bit)
  /-- The SDA wire level at a sample. -/
  | sdaSample (level : Bit)
  /-- The STATUS value after a Finish. -/
  | status (w : Word)
deriving DecidableEq, Repr

/-- What is seen of an engine step with the token given, in the state after it (R310). -/
def Token.seen (t : Token) (after : State) : List Seen :=
  match t with
  | .p level => [.sclSample level, .lines after.sclOut after.sdaOut]
  | .r level => [.sdaSample level, .lines after.sclOut after.sdaOut]
  | .f => [.lines after.sclOut after.sdaOut, .status after.status.word]
  | .c _ | .d _ | .s => [.lines after.sclOut after.sdaOut]

/-- The observation of at most `n` engine steps (R310). A run with the Host's moves in it is `ProgramRun` in Program.lean. -/
def observation : Nat → State → List Seen
  | 0, _ => []
  | n + 1, s =>
    match nextToken s with
    | none => []
    | some t => t.seen (engineStep s) ++ observation n (engineStep s)

/-- The observation of the engine steps left until the Engine is idle. -/
def observationToIdle (s : State) : List Seen := observation (s.upc.cost s.nPoll) s

/-- A start condition on the wire: SDA falls while SCL is high (R180). -/
def isStartCondition (sclBefore sdaBefore sclAfter sdaAfter : Bit) : Bit :=
  sclBefore && sclAfter && sdaBefore && !sdaAfter

/-- A stop condition on the wire: SDA rises while SCL is high (R180). -/
def isStopCondition (sclBefore sdaBefore sclAfter sdaAfter : Bit) : Bit :=
  sclBefore && sclAfter && !sdaBefore && sdaAfter

/-- The next engine step puts a start condition on the wire, the Environment holding its contributions at the levels given
across the step (R36, R180). -/
def makesStart (sclHeld sdaHeld : Bit) (s : State) : Bit :=
  isStartCondition (s.sclOut && sclHeld) (s.sdaOut && sdaHeld)
    ((engineStep s).sclOut && sclHeld) ((engineStep s).sdaOut && sdaHeld)

/-- The next engine step puts a stop condition on the wire, the Environment holding its contributions at the levels given
across the step (R36, R180). -/
def makesStop (sclHeld sdaHeld : Bit) (s : State) : Bit :=
  isStopCondition (s.sclOut && sclHeld) (s.sdaOut && sdaHeld)
    ((engineStep s).sclOut && sclHeld) ((engineStep s).sdaOut && sdaHeld)

/-! ## The Environment as a stream of samples (R37) -/

/-- The Environment's contribution to SCL at the k-th coming sample of SCL, the other instances on the bus
holding their outputs (R37, R262). -/
def sclAt (s : State) (k : Nat) : Bit :=
  s.sclPeers &&
    match s.sclIn[k]? with
    | some b => b
    | none => Config.freeScl s.freeStream (s.freeSclUsed + (k - s.sclIn.length))

/-- The Environment's contribution to SDA at the k-th coming sample of SDA, the other instances on the bus
holding their outputs (R37, R262). -/
def sdaAt (s : State) (k : Nat) : Bit :=
  s.sdaPeers &&
    match s.sdaIn[k]? with
    | some b => b
    | none => Config.freeSda s.freeStream (s.freeSdaUsed + (k - s.sdaIn.length))

/-- The state after `n` samples of SCL. -/
def dropScl : Nat → State → State
  | 0, s => s
  | n + 1, s => dropScl n (drawScl s)

/-- The state after `n` samples of SDA. -/
def dropSda : Nat → State → State
  | 0, s => s
  | n + 1, s => dropSda n (drawSda s)

/-- How many samples a clock-stretch wait takes on a stream of SCL contributions, the first at place `first`: `some k` when
the k-th sample is the first to read 1 and `k <= n`, `none` when the first `n` all read 0 (R134). -/
def waitSamples (level : Nat → Bit) (first : Nat) : Nat → Option Nat
  | 0 => none
  | n + 1 => if level first then some 1 else (waitSamples level (first + 1) n).map (· + 1)

/-- What becomes of the waits of a frame: all of them succeed, after so many samples in all, or the wait of a slot times out,
the waits before it having taken so many. -/
inductive FrameWaits where
  | all (samples : Nat)
  | timeout (slot : Nat) (samples : Nat)
deriving DecidableEq, Repr

/-- The waits of the slots left of a frame on a stream of SCL contributions, one wait a slot (R160, R164, R170): `slot` is the
number of the next slot, `taken` the samples taken before it. -/
def frameWaits (level : Nat → Bit) (n : Nat) : Nat → Nat → Nat → FrameWaits
  | 0, _, taken => .all taken
  | left + 1, slot, taken =>
    match waitSamples level taken n with
    | none => .timeout slot taken
    | some k => frameWaits level n left (slot + 1) (taken + k)

/-- The waits of the nine slots of a frame that begins in the state given. -/
def nineWaits (s : State) : FrameWaits := frameWaits (sclAt s) s.nPoll 9 0 0

/-! ## The traces of the rules, in the notation of 95_test_vectors.md -/

/-- The samples of a wait: the last of `k` reads 1 when it succeeds, all `n` read 0 when it times out (R134). -/
def waitTrace (n : Nat) : Option Nat → List Token
  | some k => List.replicate (k - 1) (.p false) ++ [.p true]
  | none => List.replicate n (.p false)

/-- `RecvBitSeq()` as the rule lists it (R137): a bit received after a wait of `k` samples. -/
def recvSlot (n k : Nat) (b : Bit) : List Token :=
  [.d true, .s, .c true] ++ waitTrace n (some k) ++ [.r b, .s, .c false]

/-- `RecvBitSeq()` up to its timeout (R137). -/
def recvSlotLate (n : Nat) : List Token := [.d true, .s, .c true] ++ waitTrace n none

/-- `SendBitSeq(v)` as the rule lists it (R138): `v` sent after a wait of `k` samples, with the read-back. -/
def sendSlot (n k : Nat) (v back : Bit) : List Token :=
  [.d v, .c true] ++ waitTrace n (some k) ++ [.r back, .s, .c false]

/-- `SendBitSeq(v)` up to its timeout (R138). -/
def sendSlotLate (n : Nat) (v : Bit) : List Token := [.d v, .c true] ++ waitTrace n none

/-- The trace of the slots left of a frame (R160): each slot whose wait succeeds, up to the first whose wait times out. -/
def slotsTrace (level : Nat → Bit) (n : Nat) (slotOf : Nat → Nat → List Token) (lateOf : Nat → List Token) :
    Nat → Nat → Nat → List Token
  | 0, _, _ => []
  | left + 1, slot, taken =>
    match waitSamples level taken n with
    | none => lateOf slot
    | some k => slotOf slot k ++ slotsTrace level n slotOf lateOf left (slot + 1) (taken + k)

/-- Bit slot `j` of a frame that carries a byte: bit `7 - j` (R160). -/
def dataBit (byte : Byte) (j : Nat) : Bit := byte.getLsbD (7 - j)

/-- The trace of `SendFrame()` with a byte in SHIFT (R161), from the state given: 8 data slots with their read-backs, then
the acknowledge slot. -/
def sendFrameTrace (byte : Byte) (s : State) : List Token :=
  slotsTrace (sclAt s) s.nPoll
    (fun j k => if j < 8 then sendSlot s.nPoll k (dataBit byte j) (dataBit byte j && sdaAt s j) else recvSlot s.nPoll k (sdaAt s 8))
    (fun j => if j < 8 then sendSlotLate s.nPoll (dataBit byte j) else recvSlotLate s.nPoll)
    9 0 0

/-- The trace of RECV_BYTE without its Finish (R166), from the state given: 8 data slots received, then ACK sent. -/
def recvFrameTrace (s : State) : List Token :=
  slotsTrace (sclAt s) s.nPoll
    (fun j k => if j < 8 then recvSlot s.nPoll k (sdaAt s j) else sendSlot s.nPoll k false false)
    (fun j => if j < 8 then recvSlotLate s.nPoll else sendSlotLate s.nPoll false)
    9 0 0

/-- The arbitration checker fired in one of the first `slots` data slots of a byte sent: a bit sent as 1 was read back as 0
(R140, R163). -/
def lostIn (byte : Byte) (s : State) (slots : Nat) : Bit :=
  (List.range slots).any fun j => dataBit byte j && !sdaAt s j

/-- The SDA levels of the samples of a trace, in order. -/
def sdaReads (ts : List Token) : List Bit :=
  ts.filterMap fun
    | .r level => some level
    | .c _ | .d _ | .s | .p _ | .f => none

end Sys2Proof.Machine
end

