-- ==== Sys2Proof/Machine/Program.lean ====
section
/-! DEFINITION. A run with the Host's moves in it (R310): what it can be observed to do, and when the command program it runs
has ended. -/

namespace Sys2Proof.Machine

/-- The move a step takes: the oldest pending one, or the Engine's (R80, R45). -/
def nextMove (s : State) : Event :=
  match s.pending with
  | [] => .engine
  | e :: _ => e

/-- What is seen of a move that starts in the state given (R310): of a whole command, every engine step of it; of a read of
LINES, its two samples (R57). A write and a change of the reset input are no engine steps and take no sample. -/
def Event.seen (e : Event) (s : State) : List Seen :=
  match e with
  | .command w => observationToIdle (offerWord w s)
  | .engine => observation 1 s
  | .read off _ => if off = 0x2#2 then [.sclSample (sclWire s), .sdaSample (sdaWire s)] else []
  | .write _ _ _ => []
  | .rst _ => []

/-- The STATUS values an observation shows, one after each Finish. -/
def statusesSeen (seen : List Seen) : List Word :=
  seen.filterMap fun
    | .status w => some w
    | .lines _ _ | .sclSample _ | .sdaSample _ => none

/-- The Engine takes a CMD write as a command (R46, R280); one written at another time is no command of its own. -/
def accepting (s : State) : Bool := !s.rst && !s.status.busy

/-- The commands a move starts: the word of an accepted CMD write (R46). -/
def Event.accepted (e : Event) (s : State) : List Word :=
  match e with
  | .command w => if accepting s then [w] else []
  | .write off _ w => if off = 0x0#2 && accepting s then [w] else []
  | .read _ _ => []
  | .engine => []
  | .rst _ => []

/-- Whether the last command started has had its Finish, after a move that starts in the state given: `was` before it. A Finish is
what shows a STATUS value; a reset is none (R280), and takes none back. -/
def Event.finished (e : Event) (s : State) (was : Bool) : Bool :=
  if (statusesSeen (e.seen s)).isEmpty then was && (e.accepted s).isEmpty else true

/-- Whether the Host has read `STATUS.BUSY = 0` after the Finish of the last command, with no CMD write since, after the move
given: `was` before it, `finished` the Finish having come (R310). The wait of a whole command ends with such a read (R212). -/
def Event.endRead (e : Event) (before after : State) (finished was : Bool) : Bool :=
  match e with
  | .command _ => !after.status.busy && finished
  | .write off _ _ => if off = 0x0#2 then false else was
  | .read off _ => was || (off == 0x1#2 && !before.status.busy && finished)
  | .engine | .rst _ => was

/-- A run in progress. -/
structure ProgramRun where
  machine : State
  /-- What the run has been observed to do, oldest first. -/
  seen : List Seen
  /-- The commands started, oldest first: the words of the accepted CMD writes. -/
  accepted : List Word
  /-- The last command started has had its Finish. -/
  finished : Bool
  /-- The Host has read `STATUS.BUSY = 0` after that Finish, with no CMD write since. -/
  endRead : Bool
deriving DecidableEq, Repr

/-- A run that begins in a state, with nothing seen yet. -/
def ProgramRun.start (s : State) : ProgramRun := { machine := s, seen := [], accepted := [], finished := false, endRead := false }

/-- The run after one more step; `none` when the step stops. -/
def ProgramRun.next (r : ProgramRun) : Option ProgramRun :=
  let e := nextMove r.machine
  match step r.machine with
  | .next t =>
    some
      { machine := t
        seen := r.seen ++ e.seen r.machine
        accepted := r.accepted ++ e.accepted r.machine
        finished := e.finished r.machine r.finished
        endRead := e.endRead r.machine t (e.finished r.machine r.finished) r.endRead }
  | .fault _ => none
  | .refused _ => none

/-- The run after `n` more steps; `none` when one of them stops. -/
def ProgramRun.run : Nat → ProgramRun → Option ProgramRun
  | 0, r => some r
  | n + 1, r =>
    match r.next with
    | some r' => run n r'
    | none => none

/-- The command program has ended (R310): its words are the commands started (a word discarded with OVERRUN is none, and has no
Finish), and the Host has read `STATUS.BUSY = 0` after the Finish of the last, with no CMD write since. A program without a
command has no last Finish and is never counted as ended: the model's choice. DESIGN CHOICE (log 26). -/
def ProgramRun.ended (program : List Word) (r : ProgramRun) : Bool :=
  !program.isEmpty && r.accepted == program && r.endRead

/-- STATUS after the Finish of each command of a program, the commands run one after another. -/
def finishStatuses : List Word → State → List Word
  | [], _ => []
  | w :: later, s => (runToIdle (offerWord w s)).status.word :: finishStatuses later (runToIdle (offerWord w s))

end Sys2Proof.Machine
end

