-- ==== Sys2Proof/Machine/System.lean ====
section
/-! DEFINITION. A system of I2CBB instances (R262): each with its own register port, line ports and state, nothing shared. The
line ports of two instances may be on one bus, and then each is part of the other's Environment. -/

namespace Sys2Proof.Machine

/-- One instance of a system: the bus its line ports are on, and its state. -/
structure Instance where
  bus : Nat
  state : State
deriving DecidableEq, Repr

/-- The instances of a system (log 18). -/
abbrev System := List Instance

/-- Instance `k` after reset: its own registers, its own stream of free draws (log 2), its own N_POLL, which no rule says two
instances have in common. DESIGN CHOICE (log 3). -/
def Instance.reset (k : Nat) : Instance :=
  { bus := Config.busOf k, state := { State.reset with nPoll := Config.nPoll k, freeStream := k } }

/-- `N_INST` instances after reset (R13, R262). -/
def System.reset : System := (List.range Config.nInst).map Instance.reset

/-- No instance but `k` on the bus given drives the line low: the other instances' part of the AND of rule R37. -/
def System.released (line : State → Bit) (sys : System) (k bus : Nat) : Bit :=
  (sys.eraseIdx k).all fun other => other.bus != bus || line other.state

/-- What instance `k` steps from: its own state, with the outputs of the other instances on its bus in its Environment (R36,
R37, R262). -/
def System.facing (sys : System) (k : Nat) (i : Instance) : State :=
  { i.state with
    sclPeers := sys.released (·.sclOut) k i.bus
    sdaPeers := sys.released (·.sdaOut) k i.bus }

/-- Instance `k` takes one step, the other instances holding their outputs; `none` when the system has no such instance. The
order of the instances' steps is open (R80): any sequence of them (log 18). -/
def System.stepInstance (sys : System) (k : Nat) : Option (Host.Outcome System Fault Refusal) :=
  match sys[k]? with
  | none => none
  | some i =>
    match step (sys.facing k i) with
    | .next s' => some (.next (sys.set k { i with state := s' }))
    | .fault r => some (.fault r)
    | .refused r => some (.refused r)

end Sys2Proof.Machine
end

