-- ==== Sys2Proof/Safety.lean ====
section
/-! DEFINITION. What counts as a safe use of the I2CBB (R290, R291), and the invariant its states keep. -/

namespace Sys2Proof.Machine

/-- The bus precondition of a command (R291): a Host obligation, never checked by the engine (R131). -/
def precondition (i : Instr) (s : State) : Bit :=
  match i with
  | .recvBit | .recvAck | .sendBit _ | .sendAck | .sendNack | .sendByte _ | .sendAddr _ _ | .recvByte | .stop => !s.sclOut
  | .start => sclWire s && sdaWire s
  | .release => true

/-- The Host may issue the command: the reset input is released, no command is in progress (R290), and the bus meets the
command's precondition (R291). -/
def mayIssue (i : Instr) (s : State) : Bit := !s.rst && !s.status.busy && precondition i s

/-- How many data bits some steps of a step list count in BITCNT (R40). -/
def countedBits (l : StepList) : Nat := (l.map fun st => st.after.count .nextBit).sum

/-- UPC is at a step of the step list that decode selects for CUR (R41, R109), with the steps before it done: BITCNT counts
their data bits, no error has been raised, and a wait that goes on has taken fewer samples than N_POLL. -/
def AtPosition (s : State) (now : MicroStep) (rest : StepList) : Prop :=
  ∃ before first, selectedBy s.cur = some (before ++ first :: rest)
    ∧ (now = first ∨ (first.prim = .pollScl ∧ now = { first with before := [] } ∧ 1 ≤ s.pollcnt ∧ s.pollcnt < s.nPoll))
    ∧ s.bitcnt.toNat = countedBits before
    ∧ s.resErr = 0#3

/-- The position is one the rules reach (R41). -/
def LegalPosition (s : State) : Prop :=
  match s.upc with
  | .idle => True
  | .fin => True
  | .run now rest => AtPosition s now rest

/-- The invariant of the I2CBB's states. -/
structure State.Inv (s : State) : Prop where
  /-- R49: BUSY is 1 exactly while a command is in progress. -/
  busy_iff : s.status.busy = true ↔ s.upc ≠ .idle
  /-- R46, R47, R50: DONE is 0 while a command is in progress. -/
  not_busy_and_done : ¬ (s.status.busy = true ∧ s.status.done = true)
  /-- R246: codes 4-7 are never written. -/
  err_le : s.status.err ≤ 3#3
  /-- R246, for the latch Finish copies. -/
  resErr_le : s.resErr ≤ 3#3
  /-- R54: BIT is 0 for a command that finished with an error. -/
  bit_without_error : s.status.bit = true → s.status.err = 0#3
  /-- R40: BITCNT holds 0-8. -/
  bitcnt_le : s.bitcnt ≤ 8#4
  /-- R13: N_POLL is at least 1. -/
  nPoll_pos : 1 ≤ s.nPoll
  /-- R40: POLLCNT holds 0..N_POLL. -/
  pollcnt_le : s.pollcnt ≤ s.nPoll
  /-- R41: UPC is IDLE, a step of the step list of CUR's command, or FIN. -/
  position : LegalPosition s
  /-- R280: while the reset input is asserted every register holds its reset value. -/
  reset_held : s.rst = true → resetRegisters s = s

/-- The engine accepts the next command (R46), and N_POLL is a legal value (R13): what every statement of a command's results
asks of the state. -/
def Ready (s : State) : Prop := s.rst = false ∧ s.status.busy = false ∧ 1 ≤ s.nPoll

/-- `exec` of the command answers a next state: the command has finished (STATUS as given, with BUSY 0, DONE 1 and OVERRUN 0:
R46, R47), CUR holds its word, the lines are as given, and the Engine is idle. -/
def Completes (i : Instr) (s : State) (w : Word) (err : BitVec 3) (arbLost bit : Bit) (rxdata : Byte) (sclOut sdaOut : Bit) :
    Prop :=
  ∃ t, exec i s = .next t
    ∧ t.status = { busy := false, done := true, overrun := false, err := err, arbLost := arbLost, bit := bit, rxdata := rxdata }
    ∧ t.sclOut = sclOut ∧ t.sdaOut = sdaOut ∧ t.cur = w ∧ t.upc = .idle

end Sys2Proof.Machine
end

