-- ==== Sys2Proof/Certificates/Slice0/Obligations.lean ====
section
/-! DEFINITION. The statements about the I2CBB, from the numbered rules of spec/. `Ready`, `Completes`, `precondition` and the
invariant are in Sys2Proof/Safety.lean; traces and sample streams in Sys2Proof/Machine/Trace.lean. -/

open Sys2Proof Sys2Proof.Machine

/-! ## Encoding (30_encoding.md) -/

/-- The worked encodings of rule R113: each source line encodes to its word, and each word, legal or illegal, decodes to what
the table says. -/
def Obligations.WorkedEncodingsDecode : Prop :=
  encode (.sendAddr 0x50#7 true) = 0x5017#16 ∧ encode (.sendAddr 0x50#7 false) = 0x5007#16
  ∧ encode (.sendAddr 0x7F#7 true) = 0x7F17#16 ∧ encode (.sendAddr 0x00#7 false) = 0x0007#16
  ∧ encode (.sendByte 0x3C#8) = 0x3C03#16 ∧ encode (.sendByte 0xFF#8) = 0xFF03#16
  ∧ encode .start = 0x0005#16 ∧ encode .stop = 0x0006#16 ∧ encode .release = 0x0008#16
  ∧ decode 0x5017#16 = .command (.sendAddr 0x50#7 true) ∧ decode 0x5007#16 = .command (.sendAddr 0x50#7 false)
  ∧ decode 0x7F17#16 = .command (.sendAddr 0x7F#7 true) ∧ decode 0x0007#16 = .command (.sendAddr 0x00#7 false)
  ∧ decode 0x3C03#16 = .command (.sendByte 0x3C#8) ∧ decode 0xFF03#16 = .command (.sendByte 0xFF#8)
  ∧ encode .sendNack = 0x0102#16 ∧ decode 0x0102#16 = .command (.sendBit true)
  ∧ encode .sendAck = 0x0002#16 ∧ decode 0x0002#16 = .command (.sendBit false)
  ∧ decode 0x0005#16 = .command .start ∧ decode 0x0006#16 = .command .stop ∧ decode 0x0008#16 = .command .release
  ∧ decode 0x0203#16 = .command (.sendByte 0x02#8)
  ∧ decode 0x0302#16 = .illegal .requiredZeroBit ∧ decode 0x0000#16 = .illegal .reservedOp
  ∧ decode 0x0009#16 = .illegal .reservedOp ∧ decode 0x0011#16 = .illegal .requiredZeroBit
  ∧ decode 0x0021#16 = .illegal .requiredZeroBit ∧ decode 0x8007#16 = .illegal .requiredZeroBit
  ∧ decode 0x0013#16 = .illegal .requiredZeroBit

/-- The decoder reads back every instruction from its word, with every operand at every value: a command as itself, an alias
as its expansion (R105, R110, R111, R112). -/
def Obligations.DecodeEncodeRoundTrip : Prop :=
  (∀ i : Instr, decode (encode i) = .command i.expand) ∧ (∀ i : Instr, i.wellFormed = true → decode (encode i) = .command i)

/-- Only one word decodes to a command: the word it encodes to; and only well-formed instructions are decoded. -/
def Obligations.EncodeIsTheOnlyWord : Prop :=
  ∀ (w : Word) (i : Instr), decode w = .command i → encode i = w ∧ i.wellFormed = true

/-- A word selects a command exactly when it matches the command's row of the table (R105); no word matches two rows; a word
that matches none is illegal; and the free fields of a row are the operands. -/
def Obligations.DecodeFollowsTheOpcodeTable : Prop :=
  (∀ (w : Word) (i : Instr), decode w = .command i → (opcodeRow i).selects w = true)
  ∧ (∀ (w : Word) (row : OpcodeRow), row ∈ opcodeTable → row.selects w = true →
      ∃ i, decode w = .command i ∧ opcodeRow i = row)
  ∧ (∀ (w : Word) (a b : OpcodeRow), a ∈ opcodeTable → b ∈ opcodeTable → a.selects w = true → b.selects w = true → a = b)
  ∧ (∀ w : Word, isLegal w = false ↔ ∀ row ∈ opcodeTable, row.selects w = false)
  ∧ (∀ (w : Word) (b : Bit), decode w = .command (.sendBit b) → b = w.getLsbD 8)
  ∧ (∀ (w : Word) (d : Byte), decode w = .command (.sendByte d) → d = w.extractLsb' 8 8)
  ∧ (∀ (w : Word) (id : BitVec 7) (r : Bit), decode w = .command (.sendAddr id r) → id = w.extractLsb' 8 7 ∧ r = w.getLsbD 4)

/-- Exactly 519 words are legal (R106): a list of 519 different words holds exactly the legal ones. -/
def Obligations.LegalWordsAre519 : Prop :=
  ∃ ws : List Word, ws.Nodup ∧ ws.length = 519 ∧ ∀ w : Word, w ∈ ws ↔ isLegal w = true

/-- The assembler lines of rule R113, in R111's syntax, assemble to their words; an operand out of range is an error. That
the comment line of the last program is skipped is the model's choice (log 20). -/
def Obligations.AssemblerLinesGiveTheirWords : Prop :=
  assembleLine ['S', 'E', 'N', 'D', '_', 'A', 'D', 'D', 'R', ' ', '0', 'x', '5', '0', ',', ' ', 'R']
      = .command (.sendAddr 0x50#7 true)
  ∧ assembleLine ['S', 'E', 'N', 'D', '_', 'A', 'D', 'D', 'R', ' ', '1', '2', '7', ',', 'W', ';', 'c']
      = .command (.sendAddr 0x7F#7 false)
  ∧ assembleLine ['S', 'E', 'N', 'D', '_', 'B', 'Y', 'T', 'E', ' ', '2', '5', '5'] = .command (.sendByte 0xFF#8)
  ∧ assembleLine ['S', 'E', 'N', 'D', '_', 'B', 'Y', 'T', 'E', ' ', '2', '5', '6'] = .error
  ∧ assembleLine ['S', 'E', 'N', 'D', '_', 'B', 'I', 'T', ' ', '2'] = .error
  ∧ assembleLine ['S', 'E', 'N', 'D', '_', 'A', 'D', 'D', 'R', ' ', '1', '2', '8', ',', ' ', 'R'] = .error
  ∧ assemble (['S', 'E', 'N', 'D', '_', 'N', 'A', 'C', 'K', '\n', ';', '\n', 'S', 'T', 'O', 'P'])
      = some [0x0102#16, 0x0006#16]

/-! ## Steps and the engine (10_state.md) -/

/-- A step runs the decoded command: when the Host's next move offers a word that decodes to `i`, the step is `exec i` with
that move taken off the agenda. -/
def Obligations.StepRunsTheDecodedCommand : Prop :=
  ∀ (s : State) (w : Word) (later : List Event) (i : Instr),
    s.pending = .command w :: later → decode w = .command i → step s = exec i { s with pending := later }

/-- The word placed by `withFetchWord` is the one the very next step runs, for every table word the decoder reads. -/
def Obligations.FetchedWordRunsNext : Prop :=
  ∀ (s : State) (w : Nat) (i : Instr), decodeTableWord 16 w = some i →
    step (s.withFetchWord 16 w) = exec i { s with rst := false, upc := .idle, status := { s.status with busy := false } }

/-- An engine step performs exactly one primitive (R45), and what each does (R19, R133): SetSCL and SetSDA write their line and
nothing else writes one; PollSCL and ReadSDA return the wire level and take one sample; ReadSDA writes SMP; only Finish writes
STATUS; where no step comes next nothing changes. -/
def Obligations.EngineStepDoesOnePrimitive : Prop :=
  ∀ s : State,
    (nextToken s = none → engineStep s = s)
    ∧ (∀ v, nextToken s = some (.c v) →
        (engineStep s).sclOut = v ∧ (engineStep s).sdaOut = s.sdaOut ∧ (engineStep s).smp = s.smp)
    ∧ (∀ v, nextToken s = some (.d v) →
        (engineStep s).sdaOut = v ∧ (engineStep s).sclOut = s.sclOut ∧ (engineStep s).smp = s.smp)
    ∧ (nextToken s = some .s →
        (engineStep s).sclOut = s.sclOut ∧ (engineStep s).sdaOut = s.sdaOut ∧ (engineStep s).smp = s.smp)
    ∧ (∀ v, nextToken s = some (.p v) →
        v = (s.sclOut && sclEnv s) ∧ (∀ k, sclAt (engineStep s) k = sclAt s (k + 1)) ∧ sdaAt (engineStep s) = sdaAt s
        ∧ (engineStep s).sclOut = s.sclOut ∧ (engineStep s).sdaOut = s.sdaOut ∧ (engineStep s).smp = s.smp)
    ∧ (∀ v, nextToken s = some (.r v) →
        v = (s.sdaOut && sdaEnv s) ∧ (engineStep s).smp = v ∧ (∀ k, sdaAt (engineStep s) k = sdaAt s (k + 1))
        ∧ sclAt (engineStep s) = sclAt s
        ∧ (engineStep s).sclOut = s.sclOut ∧ (engineStep s).sdaOut = s.sdaOut)
    ∧ (nextToken s = some .f → engineStep s = finish s)
    ∧ (nextToken s ≠ some .f → (engineStep s).status = s.status)

/-- Acceptance (R46): a CMD write while `BUSY = 0` latches the word, clears the result latches and counters, sets BUSY and clears
DONE and OVERRUN, and goes to the first step of the selected step list (of an illegal word: to Finish); the lines, SHIFT, SMP and
the other STATUS fields are kept. While `BUSY = 1` it sets OVERRUN and changes nothing else. -/
def Obligations.AcceptanceLatchesOrSetsOverrun : Prop :=
  ∀ (v : Word) (s : State), s.rst = false →
    (s.status.busy = false → ∃ t, hostWrite 0x0#2 2 v s = .next t
      ∧ t.cur = v ∧ t.resBit = false ∧ t.arbAcc = false ∧ t.rxValid = false ∧ t.bitcnt = 0#4 ∧ t.pollcnt = 0
      ∧ t.status = { s.status with busy := true, done := false, overrun := false }
      ∧ (∀ i, decode v = .command i → t.upc = Upc.ofList (stepListOf i) ∧ t.resErr = 0#3)
      ∧ (∀ why, decode v = .illegal why → t.upc = .fin)
      ∧ t.sclOut = s.sclOut ∧ t.sdaOut = s.sdaOut ∧ t.shift = s.shift ∧ t.smp = s.smp ∧ t.rst = s.rst ∧ t.nPoll = s.nPoll
      ∧ t.sclIn = s.sclIn ∧ t.sdaIn = s.sdaIn ∧ sclAt t = sclAt s ∧ sdaAt t = sdaAt s
      ∧ t.pending = s.pending ∧ t.replies = s.replies)
    ∧ (s.status.busy = true → hostWrite 0x0#2 2 v s = .next { s with status := { s.status with overrun := true } })

/-- Finish (R47): the result latches go to STATUS, BUSY is cleared and DONE set, UPC goes to IDLE; OVERRUN, the lines and every
other register are kept. -/
def Obligations.FinishWritesStatus : Prop :=
  ∀ s : State, s.rst = false → s.upc = .fin →
    engineStep s =
      { s with
        status :=
          { busy := false, done := true, overrun := s.status.overrun, err := s.resErr, arbLost := s.arbAcc
            bit := if s.resErr = 0#3 then s.resBit else false
            rxdata := if s.rxValid = true then s.shift else s.status.rxdata }
        upc := .idle }

/-- The clock-stretch wait (R134, R135): the state at the wait, the k-th sample being the first to read 1 with k at most N_POLL,
goes on after k engine steps; with N_POLL low samples it is at Finish with RES_ERR = 2 after N_POLL engine steps. The lines
stay as they are. -/
def Obligations.ClockStretchWaitIsBounded : Prop :=
  ∀ (s : State) (rest : StepList), s.rst = false → 1 ≤ s.nPoll → s.upc = .run waitSclHigh rest →
    match waitSamples (fun k => s.sclOut && sclAt s k) 0 s.nPoll with
    | some k => engineRun k s = setUpc (Upc.ofList rest) (setPollcnt k (dropScl k s))
        ∧ ∀ m, m < k → ∃ now, (engineRun m s).upc = .run now rest ∧ now.prim = .pollScl
    | none => engineRun s.nPoll s = raise .stretchTimeout (setPollcnt s.nPoll (dropScl s.nPoll s))
        ∧ ∀ m, m < s.nPoll → ∃ now, (engineRun m s).upc = .run now rest ∧ now.prim = .pollScl

/-- A CMD write while a command is in progress is reported in OVERRUN and leaves that command unaffected (R249): every later
state of the engine's run is the one without the write, but for OVERRUN. -/
def Obligations.OverrunLeavesTheCommandUnaffected : Prop :=
  ∀ (s : State) (w : Word) (n : Nat), s.rst = false → s.status.busy = true →
    (engineRun n (offerWord w s)).status.overrun = true
    ∧ engineRun n (offerWord w s)
        = { engineRun n s with status := { (engineRun n s).status with overrun := true } }

/-- No move but reset changes CUR while a command is in progress (R83, R109). -/
def Obligations.CommandInProgressKeepsItsWord : Prop :=
  ∀ (e : Event) (s t : State), s.status.busy = true → (∀ level, e ≠ .rst level) → takeEvent e s = .next t → t.cur = s.cur

/-- Only the engine's SetSCL and SetSDA and reset write a line output (R33, R34): no Host access does. -/
def Obligations.OnlyEngineAndResetWriteLines : Prop :=
  ∀ (e : Event) (s t : State), (∀ w, e ≠ .command w) → takeEvent e s = .next t →
    (t.sclOut ≠ s.sclOut → (e = .engine ∧ nextToken s = some (.c t.sclOut)) ∨ ((∃ level, e = .rst level) ∧ t.sclOut = true))
    ∧ (t.sdaOut ≠ s.sdaOut → (e = .engine ∧ nextToken s = some (.d t.sdaOut)) ∨ ((∃ level, e = .rst level) ∧ t.sdaOut = true))

/-- With nothing pending, an idle Engine holds every register (R264), and an Engine with a command in progress takes its next
engine step (R45). -/
def Obligations.EmptyAgendaLeavesTheMoveToTheEngine : Prop :=
  ∀ s : State, s.pending = [] → (s.upc = .idle → step s = .next s) ∧ step s = .next (engineStep s)

/-! ## Commands of the bit engine (40_bit_engine.md) -/

/-- RECV_BIT and its alias RECV_ACK (R137, R141): the engine steps, and the result, for every environment. -/
def Obligations.RecvBitSamplesSda : Prop :=
  ∀ (i : Instr) (s : State), i = .recvBit ∨ i = .recvAck → Ready s →
    match waitSamples (sclAt s) 0 s.nPoll with
    | some k =>
      traceToIdle (offerWord 0x0001#16 s) = recvSlot s.nPoll k (sdaAt s 0) ++ [.f]
      ∧ Completes i s 0x0001#16 0#3 false (sdaAt s 0) s.status.rxdata false true
    | none =>
      traceToIdle (offerWord 0x0001#16 s) = recvSlotLate s.nPoll ++ [.f]
      ∧ Completes i s 0x0001#16 2#3 false false s.status.rxdata true true

/-- SEND_BIT (R138, R139, R140): the engine steps, and the result, for both values of B and every environment. -/
def Obligations.SendBitDrivesSda : Prop :=
  ∀ (b : Bit) (s : State), Ready s →
    match waitSamples (sclAt s) 0 s.nPoll with
    | some k =>
      traceToIdle (offerWord (encode (.sendBit b)) s) = sendSlot s.nPoll k b (b && sdaAt s 0) ++ [.f]
      ∧ Completes (.sendBit b) s (if b then 0x0102#16 else 0x0002#16) 0#3 (b && !sdaAt s 0) false s.status.rxdata false b
    | none =>
      traceToIdle (offerWord (encode (.sendBit b)) s) = sendSlotLate s.nPoll b ++ [.f]
      ∧ Completes (.sendBit b) s (if b then 0x0102#16 else 0x0002#16) 2#3 false false s.status.rxdata true b

/-- SEND_ACK is SEND_BIT 0 and SEND_NACK is SEND_BIT 1 (R142, R143; RECV_ACK is RECV_BIT), with their words; SEND_ACK drives
SDA low for one bit slot and never sets ARB_LOST; SEND_NACK releases SDA for one bit slot and sets ARB_LOST exactly when SDA
reads low in it. -/
def Obligations.AliasesRunTheirExpansions : Prop :=
  (∀ (i : Instr) (s : State), exec i s = exec i.expand s)
  ∧ (∀ s : State, Ready s →
      match waitSamples (sclAt s) 0 s.nPoll with
      | some k =>
        traceToIdle (offerWord 0x0002#16 s) = sendSlot s.nPoll k false false ++ [.f]
        ∧ Completes .sendAck s 0x0002#16 0#3 false false s.status.rxdata false false
        ∧ traceToIdle (offerWord 0x0102#16 s) = sendSlot s.nPoll k true (sdaAt s 0) ++ [.f]
        ∧ Completes .sendNack s 0x0102#16 0#3 (!sdaAt s 0) false s.status.rxdata false true
      | none =>
        traceToIdle (offerWord 0x0002#16 s) = sendSlotLate s.nPoll false ++ [.f]
        ∧ Completes .sendAck s 0x0002#16 2#3 false false s.status.rxdata true false
        ∧ traceToIdle (offerWord 0x0102#16 s) = sendSlotLate s.nPoll true ++ [.f]
        ∧ Completes .sendNack s 0x0102#16 2#3 false false s.status.rxdata true true)

/-- What a bit command leaves as it was: SHIFT and RXDATA, the inputs, the agenda and the replies; BITCNT and RX_VALID stay
cleared, and at most one sample of SDA is taken. -/
def Obligations.FrameOfBitCommands : Prop :=
  ∀ (i : Instr) (s t : State), (i = .recvBit ∨ i = .recvAck ∨ (∃ b, i = .sendBit b) ∨ i = .sendAck ∨ i = .sendNack) →
    Ready s → exec i s = .next t →
    t.shift = s.shift ∧ t.status.rxdata = s.status.rxdata ∧ t.bitcnt = 0#4 ∧ t.rxValid = false
    ∧ (sdaAt t = sdaAt s ∨ ∀ k, sdaAt t k = sdaAt s (k + 1))
    ∧ t.rst = s.rst ∧ t.nPoll = s.nPoll ∧ t.pending = s.pending ∧ t.replies = s.replies

/-! ## Commands of the byte engine (41_byte_engine.md) -/

/-- SEND_BYTE (R161, R162, R163): eight data slots, most significant bit first, then the acknowledge slot, for every byte and
every environment; a wait that times out ends the command in its slot. -/
def Obligations.SendByteSendsAFrame : Prop :=
  ∀ (data : Byte) (s : State), Ready s →
    traceToIdle (offerWord (encode (.sendByte data)) s) = sendFrameTrace data s ++ [.f]
    ∧ match nineWaits s with
      | .all _ => Completes (.sendByte data) s (data ++ 0x03#8) 0#3 (lostIn data s 8) (sdaAt s 8) s.status.rxdata false true
      | .timeout j _ =>
        Completes (.sendByte data) s (data ++ 0x03#8) 2#3 (lostIn data s (min j 8)) false s.status.rxdata true
          (if j < 8 then dataBit data j else true)

/-- Sending a byte to a peer that never stretches runs exactly eight send-bit step lists with the bits of the byte, bit 7 first,
then exactly one receive-bit step list (R165). -/
def Obligations.ByteIsEightBitsThenAcknowledge : Prop :=
  ∀ (b : Byte) (s : State), Ready s → (∀ k, k < 9 → sclAt s k = true) → sdaAt s 8 = false →
    traceToIdle (offerWord (encode (.sendByte b)) s) =
      ((List.range 8).map fun j =>
        [Token.d (b.getLsbD (7 - j)), .c true, .p true, .r (b.getLsbD (7 - j) && sdaAt s j), .s, .c false]).flatten
      ++ [.d true, .s, .c true, .p true, .r false, .s, .c false, .f]

/-- RECV_BYTE (R166, R167, R169): eight data slots, the first bit received at RXDATA[7], then ACK is sent; a timeout in a data
slot leaves RXDATA as it was, one in the acknowledge slot does not. -/
def Obligations.RecvByteAssemblesAByte : Prop :=
  ∀ s : State, Ready s →
    traceToIdle (offerWord 0x0004#16 s) = recvFrameTrace s ++ [.f]
    ∧ ∃ byte : Byte, (∀ j, j < 8 → dataBit byte j = sdaAt s j)
      ∧ match nineWaits s with
        | .all _ => Completes .recvByte s 0x0004#16 0#3 false false byte false false
        | .timeout j _ =>
          if j < 8 then Completes .recvByte s 0x0004#16 2#3 false false s.status.rxdata true true
          else Completes .recvByte s 0x0004#16 2#3 false false byte true false

/-- The round trip (R171): what one engine puts on SDA in the eight data slots of SEND_BYTE, sampled by another engine's
RECV_BYTE, is the byte sent, when no other device drives SDA and neither engine times out. -/
def Obligations.SentByteIsReceived : Prop :=
  ∀ (b : Byte) (sender receiver : State), Ready sender → Ready receiver →
    (∃ n, nineWaits sender = .all n) → (∃ n, nineWaits receiver = .all n) → (∀ j, j < 8 → sdaAt sender j = true) →
    (∀ j, j < 8 → (sdaReads (traceToIdle (offerWord (encode (.sendByte b)) sender)))[j]? = some (sdaAt receiver j)) →
    Completes .recvByte receiver 0x0004#16 0#3 false false b false false

/-- What a frame command leaves as it was: SEND_BYTE and SEND_ADDR keep RXDATA and leave their byte in SHIFT, RX_VALID cleared;
RECV_BYTE returns no bit and detects no arbitration loss; the inputs' level, the parameter, the agenda and the replies are kept. -/
def Obligations.FrameOfFrameCommands : Prop :=
  (∀ (data : Byte) (s t : State), Ready s → exec (.sendByte data) s = .next t →
    t.status.rxdata = s.status.rxdata ∧ t.shift = data ∧ t.rxValid = false)
  ∧ (∀ (id : BitVec 7) (r : Bit) (s t : State), Ready s → exec (.sendAddr id r) s = .next t →
    t.status.rxdata = s.status.rxdata ∧ t.shift = addressByte id r ∧ t.rxValid = false)
  ∧ (∀ s t : State, Ready s → exec .recvByte s = .next t → t.resBit = false ∧ t.arbAcc = false)
  ∧ (∀ (i : Instr) (s t : State), exec i s = .next t →
    t.rst = s.rst ∧ t.nPoll = s.nPoll ∧ t.sclPeers = s.sclPeers ∧ t.sdaPeers = s.sdaPeers ∧ t.freeStream = s.freeStream
    ∧ t.pending = s.pending ∧ t.replies = s.replies)

/-! ## Bus conditions (42_bus_conditions.md) -/

/-- START (R181, R182): one SDA sample; high, the start sequence; low, BUS_CONFLICT with no line change. It never waits. -/
def Obligations.StartChecksSda : Prop :=
  ∀ s : State, Ready s →
    if (s.sdaOut && sdaAt s 0) = true then
      traceToIdle (offerWord 0x0005#16 s) = [.r true, .d false, .s, .c false, .f]
      ∧ Completes .start s 0x0005#16 0#3 false false s.status.rxdata false false
    else
      traceToIdle (offerWord 0x0005#16 s) = [.r false, .f]
      ∧ Completes .start s 0x0005#16 1#3 false false s.status.rxdata s.sclOut s.sdaOut

/-- What START puts on the wire (R183): its SetSDA(0) is a start condition exactly when the SCL wire is high at that step and the
SDA wire just before it, the Environment holding its levels across the step; with SCL low no step of START makes one. -/
def Obligations.StartConditionNeedsSclHigh : Prop :=
  ∀ (s : State) (sclHeld sdaHeld : Bit), Ready s → (s.sdaOut && sdaAt s 0) = true →
    makesStart sclHeld sdaHeld (engineRun 1 (offerWord 0x0005#16 s)) = (s.sclOut && sclHeld && sdaHeld)
    ∧ ((s.sclOut && sclHeld) = false → ∀ n, makesStart sclHeld sdaHeld (engineRun n (offerWord 0x0005#16 s)) = false)

/-- STOP (R185, R186): the engine steps, and the result, for every environment; only a timeout is an error. -/
def Obligations.StopReleasesBothLines : Prop :=
  ∀ s : State, Ready s →
    match waitSamples (sclAt s) 0 s.nPoll with
    | some k =>
      traceToIdle (offerWord 0x0006#16 s) = [.d false, .s, .c true] ++ waitTrace s.nPoll (some k) ++ [.s, .d true, .f]
      ∧ Completes .stop s 0x0006#16 0#3 false false s.status.rxdata true true
    | none =>
      traceToIdle (offerWord 0x0006#16 s) = [.d false, .s, .c true] ++ waitTrace s.nPoll none ++ [.f]
      ∧ Completes .stop s 0x0006#16 2#3 false false s.status.rxdata true false

/-- What STOP puts on the wire (R187): after a wait of k samples its SetSDA(1) is a stop condition exactly when no other device
holds a line low then; issued with SCL_OUT = 1 its first step is a start condition when the SCL wire and the SDA wire are high. -/
def Obligations.StopConditionOnTheWire : Prop :=
  ∀ (s : State) (sclHeld sdaHeld : Bit), Ready s →
    (∀ k, waitSamples (sclAt s) 0 s.nPoll = some k →
      makesStop sclHeld sdaHeld (engineRun (4 + k) (offerWord 0x0006#16 s)) = (sclHeld && sdaHeld))
    ∧ makesStart sclHeld sdaHeld (offerWord 0x0006#16 s) = (s.sclOut && sclHeld && (s.sdaOut && sdaHeld))

/-- SEND_ADDR (R190, R71): the frame that carries {ID, R}, for every identifier, either direction and every environment. -/
def Obligations.SendAddrSendsItsFrame : Prop :=
  ∀ (id : BitVec 7) (r : Bit) (s : State), Ready s →
    traceToIdle (offerWord (encode (.sendAddr id r)) s) = sendFrameTrace (addressByte id r) s ++ [.f]
    ∧ match nineWaits s with
      | .all _ =>
        Completes (.sendAddr id r) s (0#1 ++ id ++ 0#3 ++ BitVec.ofBool r ++ 0x7#4) 0#3 (lostIn (addressByte id r) s 8)
          (sdaAt s 8) s.status.rxdata false true
      | .timeout j _ =>
        Completes (.sendAddr id r) s (0#1 ++ id ++ 0#3 ++ BitVec.ofBool r ++ 0x7#4) 2#3
          (lostIn (addressByte id r) s (min j 8)) false s.status.rxdata true
          (if j < 8 then dataBit (addressByte id r) j else true)

/-- The address byte (R191): `((ID << 1) OR R) AND 0xFF`, which is 2*ID + R with no truncation; 0xA1 and 0xA0 for ID 0x50. -/
def Obligations.AddressByteArithmetic : Prop :=
  (∀ (id : BitVec 7) (r : Bit),
    addressByte id r = ((id.setWidth 8 <<< 1) ||| (BitVec.ofBool r).setWidth 8) &&& 0xFF#8
    ∧ (addressByte id r).toNat = 2 * id.toNat + r.toNat)
  ∧ addressByte 0x50#7 true = 0xA1#8 ∧ addressByte 0x50#7 false = 0xA0#8

/-- RELEASE (R195): SCL is released, then SDA, whatever the state before; no error, no sample. From both lines driven low, with
no other device holding them, its second step is a stop condition. -/
def Obligations.ReleaseReleasesBothLines : Prop :=
  ∀ s : State, Ready s →
    traceToIdle (offerWord 0x0008#16 s) = [.c true, .d true, .f]
    ∧ Completes .release s 0x0008#16 0#3 false false s.status.rxdata true true
    ∧ (s.sclOut = false → s.sdaOut = false → makesStop true true (engineRun 1 (offerWord 0x0008#16 s)) = true)

/-- What START, STOP and RELEASE leave as it was: SHIFT and RXDATA; START and RELEASE take no SCL sample, STOP and RELEASE no SDA
sample (and do not write SMP); the latches no command of these writes stay cleared. -/
def Obligations.FrameOfBusConditions : Prop :=
  ∀ (i : Instr) (s t : State), (i = .start ∨ i = .stop ∨ i = .release) → Ready s → exec i s = .next t →
    t.shift = s.shift ∧ t.status.rxdata = s.status.rxdata ∧ t.bitcnt = 0#4 ∧ t.rxValid = false ∧ t.resBit = false
    ∧ t.arbAcc = false
    ∧ (i ≠ .stop → sclAt t = sclAt s ∧ t.pollcnt = 0)
    ∧ (i ≠ .start → sdaAt t = sdaAt s ∧ t.smp = s.smp)
    ∧ t.rst = s.rst ∧ t.nPoll = s.nPoll ∧ t.pending = s.pending ∧ t.replies = s.replies

/-! ## Errors (60_exceptions.md) -/

/-- An illegal word (R245): accepted, its only step is Finish with ERR = 3; no line changes, and CUR holds the word. -/
def Obligations.IllegalWordFinishesWithError3 : Prop :=
  ∀ (w : Word) (later : List Event) (s : State), Ready s → isLegal w = false → s.pending = .command w :: later →
    traceToIdle (offerWord w s) = [.f]
    ∧ ∃ t, step s = .next t
      ∧ t.status = { busy := false, done := true, overrun := false, err := 3#3, arbLost := false, bit := false, rxdata := s.status.rxdata }
      ∧ t.sclOut = s.sclOut ∧ t.sdaOut = s.sdaOut ∧ t.cur = w ∧ t.upc = .idle ∧ hostRead 0x0#2 2 t = .next (reply w t)
      ∧ t.shift = s.shift ∧ t.smp = s.smp ∧ sclAt t = sclAt s ∧ sdaAt t = sdaAt s ∧ t.pending = later

/-- Which command can raise what (R251): both that no other error or loss is possible and that each listed one happens. -/
def Obligations.ErrorsEachCommandCanRaise : Prop :=
  (∀ (i : Instr) (s t : State), Ready s → exec i s = .next t →
    (t.status.err = 0#3 ∨ t.status.err = 1#3 ∨ t.status.err = 2#3)
    ∧ (t.status.err = 1#3 → i = .start)
    ∧ (t.status.err = 2#3 → i ≠ .start ∧ i ≠ .release)
    ∧ (t.status.arbLost = true →
        i = .sendBit true ∨ i = .sendNack ∨ (∃ d, i = .sendByte d) ∨ (∃ id r, i = .sendAddr id r)))
  ∧ (∃ s t, Ready s ∧ exec .start s = .next t ∧ t.status.err = 1#3)
  ∧ (∀ i : Instr, i ≠ .start → i ≠ .release → ∃ s t, Ready s ∧ exec i s = .next t ∧ t.status.err = 2#3)
  ∧ (∀ i : Instr, (i = .sendBit true ∨ i = .sendNack ∨ (∃ d, i = .sendByte d ∧ d ≠ 0#8) ∨ (∃ id r, i = .sendAddr id r ∧ addressByte id r ≠ 0#8)) →
      ∃ s t, Ready s ∧ exec i s = .next t ∧ t.status.arbLost = true)
  ∧ (∀ (w : Word) (s : State), Ready s → isLegal w = false → (runIllegal w s).status.err = 3#3 ∧ (runIllegal w s).status.arbLost = false)

/-- After a timeout SCL stays released (R135, R244): `SCL_OUT = 1`, and BIT is 0 (R54). -/
def Obligations.TimeoutLeavesSclReleased : Prop :=
  ∀ (i : Instr) (s t : State), Ready s → exec i s = .next t → t.status.err = 2#3 → t.sclOut = true ∧ t.status.bit = false

/-- The reference return value (R252). -/
def Obligations.ReferenceReturnValue : Prop :=
  ∀ (st : Status) (op : Instr),
    (st.err ≠ 0#3 → ret st op = -(st.err.toNat : Int))
    ∧ (st.err = 0#3 → ((op = .recvBit ∨ (∃ d, op = .sendByte d) ∨ ∃ id r, op = .sendAddr id r) → ret st op = if st.bit = true then 1 else 0)
        ∧ ((∃ b, op = .sendBit b) ∨ op = .recvByte ∨ op = .start ∨ op = .stop ∨ op = .release → ret st op = 0))

/-! ## The register port (20_memory.md) -/

/-- What the registers read as (R44, R48, R57, R58): CMD is CUR; each field of STATUS stands in its bits; LINES holds the outputs
and the wire levels of two fresh samples; offset 3 is zero. -/
def Obligations.PortReadsShowTheRegisters : Prop :=
  ∀ s : State, s.status.err ≤ 3#3 →
    hostRead 0x0#2 2 s = .next (reply s.cur s)
    ∧ (∃ w, hostRead 0x1#2 2 s = .next (reply w s) ∧ w.getLsbD 0 = s.status.busy ∧ w.getLsbD 1 = s.status.done
        ∧ w.getLsbD 2 = s.status.overrun ∧ w.extractLsb' 3 3 = s.status.err ∧ w.getLsbD 6 = s.status.arbLost
        ∧ w.getLsbD 7 = s.status.bit ∧ w.extractLsb' 8 8 = s.status.rxdata)
    ∧ (∃ w, hostRead 0x2#2 2 s = .next (reply w (drawSda (drawScl s))) ∧ w.getLsbD 0 = s.sclOut ∧ w.getLsbD 1 = s.sdaOut
        ∧ w.getLsbD 2 = (s.sclOut && sclAt s 0) ∧ w.getLsbD 3 = (s.sdaOut && sdaAt s 0) ∧ w.extractLsb' 4 12 = 0#12)
    ∧ hostRead 0x3#2 2 s = .next (reply 0x0000#16 s)

/-- Side effects of the port (R77): writes to STATUS, LINES and offset 3 do nothing; a read changes no register, and only a read
of LINES takes samples; two reads of CMD or STATUS one after the other return the same. -/
def Obligations.PortAccessSideEffects : Prop :=
  (∀ (off : BitVec 2) (v : Word) (s : State), off ≠ 0x0#2 → hostWrite off 2 v s = .next s)
  ∧ (∀ (off : BitVec 2) (size : Nat) (s t : State), hostRead off size s = .next t →
      (∃ w, t.replies = w :: s.replies)
      ∧ { t with replies := s.replies, sclIn := s.sclIn, sdaIn := s.sdaIn, freeSclUsed := s.freeSclUsed, freeSdaUsed := s.freeSdaUsed } = s
      ∧ (off = 0x2#2 → (∀ k, sclAt t k = sclAt s (k + 1)) ∧ ∀ k, sdaAt t k = sdaAt s (k + 1))
      ∧ (off ≠ 0x2#2 → sclAt t = sclAt s ∧ sdaAt t = sdaAt s))
  ∧ (∀ (off : BitVec 2) (s t u : State), off ≠ 0x2#2 → hostRead off 2 s = .next t → hostRead off 2 t = .next u →
      ∃ w, t.replies = w :: s.replies ∧ u.replies = w :: w :: s.replies)

/-- An access of a size other than 2 bytes is refused, and that is the only thing the machine ever refuses (R75, D37). -/
def Obligations.OnlyOddSizedAccessesAreRefused : Prop :=
  (∀ (off : BitVec 2) (size : Nat) (v : Word) (s : State), size ≠ 2 →
    hostRead off size s = .refused .accessSize ∧ hostWrite off size v s = .refused .accessSize)
  ∧ (∀ (s : State) (r : Refusal), step s = .refused r → r = .accessSize
      ∧ ∃ off size later, size ≠ 2 ∧ (s.pending = .read off size :: later ∨ ∃ v, s.pending = .write off size v :: later))

/-! ## Reset (70_reset_and_hazards.md) -/

/-- The state after reset has the values of rule R59; LINES bits 1:0 read 0b11, and bits 3:2 are the wire levels. -/
def Obligations.ResetValues : Prop :=
  State.reset.sclOut = true ∧ State.reset.sdaOut = true ∧ State.reset.cur = 0x0000#16 ∧ State.reset.shift = 0x00#8
  ∧ State.reset.bitcnt = 0#4 ∧ State.reset.pollcnt = 0 ∧ State.reset.upc = .idle
  ∧ State.reset.resErr = 0#3 ∧ State.reset.resBit = false ∧ State.reset.arbAcc = false ∧ State.reset.rxValid = false
  ∧ State.reset.smp = false ∧ State.reset.status.word = 0x0000#16
  ∧ (∃ w, hostRead 0x2#2 2 State.reset = .next (reply w (drawSda (drawScl State.reset))) ∧ w.extractLsb' 0 2 = 0b11#2
      ∧ w.getLsbD 2 = sclAt State.reset 0 ∧ w.getLsbD 3 = sdaAt State.reset 0)

/-- Reset (R280): asserting the input puts every register at its reset value whatever command is in progress, with no Finish;
while it is asserted, and at the moment it is released, no move changes that; and reset alone ends a command without Finish. -/
def Obligations.ResetAbandonsAndHolds : Prop :=
  (∀ s : State, ∃ t, takeEvent (.rst true) s = .next t ∧ resetRegisters t = t ∧ t.rst = true ∧ t.status.done = false
    ∧ t.sclOut = true ∧ t.sdaOut = true ∧ t.upc = .idle ∧ t.status.word = 0x0000#16
    ∧ t.nPoll = s.nPoll ∧ t.pending = s.pending ∧ t.replies = s.replies ∧ sclAt t = sclAt s ∧ sdaAt t = sdaAt s)
  ∧ (∀ (e : Event) (s t : State), s.Inv → s.rst = true → takeEvent e s = .next t → resetRegisters t = t)
  ∧ (∀ (e : Event) (s t : State), s.Inv → s.status.busy = true → takeEvent e s = .next t → t.status.busy = false →
      t.status.done = true ∨ e = .rst true)

/-- The invariant holds after reset. -/
def Obligations.ResetMeetsTheInvariant : Prop := State.reset.Inv

/-- Every step keeps the invariant, from every state that meets it. -/
def Obligations.StepKeepsTheInvariant : Prop :=
  ∀ s t : State, s.Inv → step s = .next t → t.Inv

/-- Error codes 4-7 are never written and never read (R246): from a state that meets the invariant no step faults, and no next
state has such a code. -/
def Obligations.ErrorCodesAbove3NeverAppear : Prop :=
  ∀ s : State, s.Inv → (∀ r, step s ≠ .fault r) ∧ ∀ t, step s = .next t → t.status.err ≤ 3#3

/-! ## Whole commands and atomic steps -/

/-- Running a command with `exec` is the same as its atomic steps one after another: the CMD write as one Host step, then engine
steps until the Engine is idle (R31, R45, R46, R80); with a command in progress, `exec` sets OVERRUN and lets that command run to
its end. The agenda form and the whole-command event are the model's choice (logs 1 and 19). -/
def Obligations.ExecIsItsAtomicSteps : Prop :=
  (∀ (i : Instr) (s t : State) (n : Nat), Ready s → s.pending = [] → 54 + 9 * s.nPoll ≤ n → exec i s = .next t →
    Host.Core.run Sys2Proof.core (n + 1) { s with pending := [.write 0x0#2 2 (encode i)] } = .next t)
  ∧ (∀ (i : Instr) (s : State), s.rst = false → s.status.busy = true → exec i s = .next (discard (runToIdle s)))

/-- Every command finishes within 54 + 9*N_POLL engine steps, whatever the Environment does (R302), and BUSY is 1 until then. -/
def Obligations.EveryCommandFinishes : Prop :=
  ∀ (w : Word) (s : State), Ready s →
    ∃ n, 1 ≤ n ∧ n ≤ 54 + 9 * s.nPoll ∧ (engineRun n (offerWord w s)).upc = .idle
      ∧ (engineRun n (offerWord w s)).status.done = true
      ∧ ∀ m, m < n → (engineRun m (offerWord w s)).status.busy = true

/-- Engine steps per command, Finish included, exactly (R144, R164, R170, R301): k is the number of samples of a successful wait
and N = N_POLL; a timeout in slot j of a frame comes after the full slots before it. -/
def Obligations.EngineStepsPerCommand : Prop :=
  ∀ s : State, Ready s →
    (stepsToIdle (offerWord 0x0001#16 s) = match waitSamples (sclAt s) 0 s.nPoll with | some k => 7 + k | none => 4 + s.nPoll)
    ∧ (∀ b, stepsToIdle (offerWord (encode (.sendBit b)) s) =
        match waitSamples (sclAt s) 0 s.nPoll with | some k => 6 + k | none => 3 + s.nPoll)
    ∧ (∀ i, (∃ d, i = .sendByte d) ∨ (∃ id r, i = .sendAddr id r) → stepsToIdle (offerWord (encode i) s) =
        match nineWaits s with
        | .all total => 47 + total
        | .timeout j taken => 5 * j + taken + (if j < 8 then 3 else 4) + s.nPoll)
    ∧ (stepsToIdle (offerWord 0x0004#16 s) =
        match nineWaits s with
        | .all total => 54 + total
        | .timeout j taken => 6 * j + taken + (if j < 8 then 4 else 3) + s.nPoll)
    ∧ (stepsToIdle (offerWord 0x0005#16 s) = if (s.sdaOut && sdaAt s 0) = true then 5 else 2)
    ∧ (stepsToIdle (offerWord 0x0006#16 s) = match waitSamples (sclAt s) 0 s.nPoll with | some k => 6 + k | none => 4 + s.nPoll)
    ∧ stepsToIdle (offerWord 0x0008#16 s) = 3
    ∧ (∀ w, isLegal w = false → stepsToIdle (offerWord w s) = 1)
    ∧ (∀ k, waitSamples (sclAt s) 0 s.nPoll = some k → 1 ≤ k ∧ k ≤ s.nPoll)
    ∧ (∀ total, nineWaits s = .all total → 9 ≤ total ∧ total ≤ 9 * s.nPoll)

/-- The data-change rule (R292): when a command other than RELEASE is issued with its precondition met, every SetSDA comes while
`SCL_OUT = 0`, but for START's SetSDA(0) and STOP's SetSDA(1). RELEASE's one SetSDA comes with SCL released (R195; log 24). -/
def Obligations.DataChangesOnlyWhileSclLow : Prop :=
  ∀ (i : Instr) (s : State) (n : Nat) (v : Bit), 1 ≤ s.nPoll → mayIssue i s = true →
    nextToken (engineRun n (offerWord (encode i) s)) = some (.d v) →
    if i = .release then (engineRun n (offerWord (encode i) s)).sclOut = true ∧ v = true
    else (engineRun n (offerWord (encode i) s)).sclOut = false ∨ (i = .start ∧ v = false) ∨ (i = .stop ∧ v = true)

/-! ## Host procedures (45_host_transactions.md) -/

/-- `Exec(w)` (R212) of a word that decodes to a command ends in the state of `exec`, and returns its STATUS. -/
def Obligations.HostExecRunsTheCommand : Prop :=
  ∀ (w : Word) (i : Instr) (h : HostRun), decode w = .command i →
    exec i h.machine = .next (hostExec w h).2.machine ∧ (hostExec w h).1 = (hostExec w h).2.machine.status
    ∧ (hostExec w h).2.issued = h.issued ++ [w]

/-- A transfer with START, WRITE and STOP of a buffer of any length, on an idle bus that no device stretches, with no loop left
on NACK (R215, R219): it issues exactly START, SEND_ADDR with R = 0, one SEND_BYTE a byte, and STOP, and returns the count. -/
def Obligations.WriteTransferIssuesItsCommands : Prop :=
  ∀ (p : HostParams) (buf : List Byte) (h : HostRun), p.nackAborts = false → Ready h.machine →
    (∀ k, k < 10 + 9 * buf.length → sclAt h.machine k = true) → (h.machine.sdaOut && sdaAt h.machine 0) = true →
    (transfer p buf (fStart ||| fWrite ||| fStop) h).ret = (buf.length : Int)
    ∧ (transfer p buf (fStart ||| fWrite ||| fStop) h).run.issued =
        h.issued ++ [0x0005#16, encode (.sendAddr p.slaveId false)] ++ buf.map (fun b => encode (.sendByte b)) ++ [0x0006#16]
    ∧ (transfer p buf (fStart ||| fWrite ||| fStop) h).buf = buf

/-- A transfer with START, READ and STOP on an idle bus that no device stretches fills the buffer with the bytes on SDA: byte i
from the eight data slots of the i-th RECV_BYTE, most significant bit first (R215, R166, R73). -/
def Obligations.ReadTransferFillsTheBuffer : Prop :=
  ∀ (p : HostParams) (buf : List Byte) (h : HostRun), p.nackAborts = false → Ready h.machine →
    (∀ k, k < 10 + 9 * buf.length → sclAt h.machine k = true) → (h.machine.sdaOut && sdaAt h.machine 0) = true →
    (transfer p buf (fStart ||| fRead ||| fStop) h).ret = (buf.length : Int)
    ∧ (transfer p buf (fStart ||| fRead ||| fStop) h).buf.length = buf.length
    ∧ (∀ (i j : Nat) (b : Byte), j < 8 → (transfer p buf (fStart ||| fRead ||| fStop) h).buf[i]? = some b →
        dataBit b j = sdaAt h.machine (10 + 9 * i + j))
    ∧ (transfer p buf (fStart ||| fRead ||| fStop) h).run.issued =
        h.issued ++ [0x0005#16, encode (.sendAddr p.slaveId true)] ++ List.replicate buf.length 0x0004#16 ++ [0x0006#16]

/-- The return value of `transfer` (R217): the size when the last command finished without an error (or none was issued), the
negated code of the failing command, or E_NACK, which needs NACK_ABORTS; never a partial count. -/
def Obligations.TransferReturnsNoPartialCount : Prop :=
  ∀ (p : HostParams) (buf : List Byte) (flags : Nat) (h : HostRun), h.machine.Inv →
    (transfer p buf flags h).run.machine.status.err ≤ 3#3
    ∧ (((transfer p buf flags h).ret = (buf.length : Int)
          ∧ ((transfer p buf flags h).run.issued = h.issued ∨ (transfer p buf flags h).run.machine.status.err = 0#3))
      ∨ ((transfer p buf flags h).run.machine.status.err ≠ 0#3
          ∧ (transfer p buf flags h).ret = -((transfer p buf flags h).run.machine.status.err.toNat : Int))
      ∨ (p.nackAborts = true ∧ (transfer p buf flags h).run.machine.status.err = 0#3
          ∧ (transfer p buf flags h).run.machine.status.bit = true ∧ (transfer p buf flags h).ret = -4))

/-- The sub-address bytes (R220): ADDR_BYTES of them, each the bits of `addr` the order gives. -/
def Obligations.SubaddressBytes : Prop :=
  ∀ (p : HostParams) (addr : BitVec 32),
    (subaddr p addr).length = p.addrBytes.val
    ∧ ∀ j, j < p.addrBytes.val →
      (p.subaddrOrder = .msbFirst → (subaddr p addr)[j]? = some (addr.extractLsb' (8 * (p.addrBytes.val - 1 - j)) 8))
      ∧ (p.subaddrOrder = .lsbFirst → (subaddr p addr)[j]? = some (addr.extractLsb' (8 * j) 8))

/-- The addressed operations (R221, R222) on an idle bus that no device stretches: `addr_write` and the REFERENCE `addr_read` send
the sub-address and the buffer in one write; the INTENDED `addr_read` receives the buffer after the sub-address, with no second
start and no second address byte. -/
def Obligations.AddressedTransfersIssueTheirCommands : Prop :=
  ∀ (p : HostParams) (addr : BitVec 32) (buf : List Byte) (h : HostRun), p.nackAborts = false → Ready h.machine →
    (∀ k, k < 10 + 9 * (p.addrBytes.val + buf.length) → sclAt h.machine k = true) → (h.machine.sdaOut && sdaAt h.machine 0) = true →
    (addrWrite p addr buf h).ret = (buf.length : Int)
    ∧ (addrWrite p addr buf h).run.issued =
        h.issued ++ [0x0005#16, encode (.sendAddr p.slaveId false)] ++ (subaddr p addr).map (fun b => encode (.sendByte b))
          ++ buf.map (fun b => encode (.sendByte b)) ++ [0x0006#16]
    ∧ (addrRead p addr buf h).ret = (buf.length : Int)
    ∧ (p.addrReadMode = .reference → (addrRead p addr buf h) = addrWrite p addr buf h)
    ∧ (p.addrReadMode = .intended → (addrRead p addr buf h).run.issued =
        h.issued ++ [0x0005#16, encode (.sendAddr p.slaveId false)] ++ (subaddr p addr).map (fun b => encode (.sendByte b))
          ++ List.replicate buf.length 0x0004#16 ++ [0x0006#16])

/-- A byte read that ends with a NACK (R168): 8 RECV_BIT then SEND_NACK give the byte RECV_BYTE would have received on the same
bus, and the last slot carries 1. -/
def Obligations.ByteReadWithNack : Prop :=
  ∀ h : HostRun, Ready h.machine → (∀ k, k < 9 → sclAt h.machine k = true) →
    (hostRecvByteNack h).1 = 0
    ∧ (∀ j, j < 8 → dataBit (hostRecvByteNack h).2.1 j = sdaAt h.machine j)
    ∧ Completes .recvByte h.machine 0x0004#16 0#3 false false (hostRecvByteNack h).2.1 false false
    ∧ (hostRecvByteNack h).2.2.issued = h.issued ++ List.replicate 8 0x0001#16 ++ [0x0102#16]
    ∧ (hostRecvByteNack h).2.2.machine.sdaOut = true ∧ (hostRecvByteNack h).2.2.machine.sclOut = false

/-- Instances share no state (R262): a step of one leaves every other as it was, and does to its own what `step` does with the
outputs of the other instances on its bus in its Environment; after reset there are N_INST of them, at least one, each with the
reset state, and an N_POLL and free draws of its own, which no step exchanges (logs 2 and 3). -/
def Obligations.InstancesShareNoState : Prop :=
  (∀ (sys after : System) (k : Nat), System.stepInstance sys k = some (.next after) →
    after.length = sys.length ∧ (∀ j, j ≠ k → after[j]? = sys[j]?)
    ∧ ∃ i t, sys[k]? = some i ∧ step (sys.facing k i) = .next t ∧ after[k]? = some { i with state := t }
      ∧ t.freeStream = i.state.freeStream ∧ t.nPoll = i.state.nPoll)
  ∧ System.reset.length = Config.nInst ∧ 1 ≤ Config.nInst
  ∧ (∀ (k : Nat) (i : Instance), System.reset[k]? = some i →
      i.state = { State.reset with nPoll := Config.nPoll k, freeStream := k })

/-- Two instances on one bus are each part of the other's Environment (R262; the others hold their outputs for a step: log 18): while one drives a line low, every sample the other
takes of it reads 0, so that its START is a bus conflict and its waits time out; an instance alone on its bus has its own
Environment only. -/
def Obligations.InstancesOnOneBusSeeEachOther : Prop :=
  (∀ (sys : System) (j k : Nat) (other i : Instance), j ≠ k → sys[j]? = some other → sys[k]? = some i → other.bus = i.bus →
    (other.state.sclOut = false → ∀ n, sclAt (sys.facing k i) n = false)
    ∧ (other.state.sdaOut = false → ∀ n, sdaAt (sys.facing k i) n = false)
    ∧ (Ready i.state → other.state.sdaOut = false →
        Completes .start (sys.facing k i) 0x0005#16 1#3 false false i.state.status.rxdata i.state.sclOut i.state.sdaOut)
    ∧ (Ready i.state → other.state.sclOut = false →
        Completes .recvBit (sys.facing k i) 0x0001#16 2#3 false false i.state.status.rxdata true true))
  ∧ (∀ (sys : System) (k : Nat) (i : Instance), (∀ j other, j ≠ k → sys[j]? = some other → other.bus ≠ i.bus) →
    sys.facing k i = { i.state with sclPeers := true, sdaPeers := true })

/-! ## The end of a run (70_reset_and_hazards.md) -/

/-- When a command program has ended, and what its run shows (R310; that the whole-command move holds the write and the last read
is the model's choice: log 26). A program offered command by command has ended after its last one, in the state the Host's
procedure leaves, and shows one STATUS value after each Finish. A run that has ended has started the program's words and nothing
else, the last has had its Finish, and no command is in progress. In atomic steps (one CMD write, `m` engine steps, one read of
STATUS) it has ended exactly when the Finish came before the read, and it shows what the engine steps show; the same with a reset
before the read, which ends no command with a Finish and takes no Finish back; and a word discarded with OVERRUN is no command, so
that a program with it as its last word does not end. -/
def Obligations.ProgramEndsWithTheReadAfterItsLastFinish : Prop :=
  (∀ (program : List Word) (s : State), program ≠ [] → Ready s → s.pending = program.map Event.command →
    ∃ r, (ProgramRun.start s).run program.length = some r ∧ r.ended program = true
      ∧ statusesSeen r.seen = finishStatuses program s
      ∧ r.machine = (hostProgram program { machine := { s with pending := [] }, issued := [] }).machine)
  ∧ (∀ (program : List Word) (s : State) (n : Nat) (r : ProgramRun), s.Inv → (ProgramRun.start s).run n = some r →
      r.ended program = true → r.accepted = program ∧ r.finished = true ∧ r.machine.status.busy = false)
  ∧ (∀ (w : Word) (s : State) (m : Nat), s.Inv → Ready s →
      s.pending = .write 0x0#2 2 w :: (List.replicate m .engine ++ [.read 0x1#2 2]) →
      ∃ r, (ProgramRun.start s).run (m + 2) = some r ∧ r.ended [w] = decide (stepsToIdle (offerWord w s) ≤ m)
        ∧ r.seen = observation m (offerWord w s))
  ∧ (∀ (w : Word) (s : State) (m : Nat), s.Inv → Ready s →
      s.pending = .write 0x0#2 2 w :: (List.replicate m .engine ++ [.rst true, .read 0x1#2 2]) →
      ∃ r, (ProgramRun.start s).run (m + 3) = some r ∧ r.ended [w] = decide (stepsToIdle (offerWord w s) ≤ m)
        ∧ r.machine.status.busy = false)
  ∧ (∀ (w v : Word) (s : State) (m : Nat), s.Inv → Ready s →
      s.pending = .write 0x0#2 2 w :: .write 0x0#2 2 v :: (List.replicate m .engine ++ [.read 0x1#2 2]) →
      ∃ r, (ProgramRun.start s).run (m + 3) = some r ∧ r.ended [w, v] = false
        ∧ r.ended [w] = decide (stepsToIdle (offerWord w s) ≤ m))
end

