-- ==== Sys2Proof/Laws/Decode.lean ====
section
/-! SUPPORT. The operand fields of an encoded command (R103), and the operands read back. -/

namespace Sys2Proof.Laws

@[simp] theorem bField_encode_sendBit (b : Bit) : bField (encode (.sendBit b)) = b := by
  cases b <;> decide

@[simp] theorem argField_encode_sendByte (d : Byte) : argField (encode (.sendByte d)) = d := by
  revert d; decide

@[simp] theorem idField_encode_sendAddr (id : BitVec 7) (r : Bit) : idField (encode (.sendAddr id r)) = id := by
  revert id r; decide

@[simp] theorem rField_encode_sendAddr (id : BitVec 7) (r : Bit) : rField (encode (.sendAddr id r)) = r := by
  revert id r; decide

@[simp] theorem bField_encode_sendAck : bField (encode .sendAck) = false := by decide

@[simp] theorem bField_encode_sendNack : bField (encode .sendNack) = true := by decide

end Sys2Proof.Laws
end

