-- ==== Sys2Proof/Laws/State.lean ====
section
/-! SUPPORT. One lemma per field per named update of State: no proof need unfold an update. -/

namespace Sys2Proof.Laws

open Sys2Proof.Machine

/-! ### setUpc -/

@[simp] theorem setUpc_sclOut (u : Upc) (s : State) : (setUpc u s).sclOut = s.sclOut := rfl
@[simp] theorem setUpc_sdaOut (u : Upc) (s : State) : (setUpc u s).sdaOut = s.sdaOut := rfl
@[simp] theorem setUpc_cur (u : Upc) (s : State) : (setUpc u s).cur = s.cur := rfl
@[simp] theorem setUpc_shift (u : Upc) (s : State) : (setUpc u s).shift = s.shift := rfl
@[simp] theorem setUpc_bitcnt (u : Upc) (s : State) : (setUpc u s).bitcnt = s.bitcnt := rfl
@[simp] theorem setUpc_pollcnt (u : Upc) (s : State) : (setUpc u s).pollcnt = s.pollcnt := rfl
@[simp] theorem setUpc_upc (u : Upc) (s : State) : (setUpc u s).upc = u := rfl
@[simp] theorem setUpc_resErr (u : Upc) (s : State) : (setUpc u s).resErr = s.resErr := rfl
@[simp] theorem setUpc_resBit (u : Upc) (s : State) : (setUpc u s).resBit = s.resBit := rfl
@[simp] theorem setUpc_arbAcc (u : Upc) (s : State) : (setUpc u s).arbAcc = s.arbAcc := rfl
@[simp] theorem setUpc_rxValid (u : Upc) (s : State) : (setUpc u s).rxValid = s.rxValid := rfl
@[simp] theorem setUpc_smp (u : Upc) (s : State) : (setUpc u s).smp = s.smp := rfl
@[simp] theorem setUpc_status (u : Upc) (s : State) : (setUpc u s).status = s.status := rfl
@[simp] theorem setUpc_rst (u : Upc) (s : State) : (setUpc u s).rst = s.rst := rfl
@[simp] theorem setUpc_nPoll (u : Upc) (s : State) : (setUpc u s).nPoll = s.nPoll := rfl
@[simp] theorem setUpc_sclIn (u : Upc) (s : State) : (setUpc u s).sclIn = s.sclIn := rfl
@[simp] theorem setUpc_sdaIn (u : Upc) (s : State) : (setUpc u s).sdaIn = s.sdaIn := rfl
@[simp] theorem setUpc_freeSclUsed (u : Upc) (s : State) : (setUpc u s).freeSclUsed = s.freeSclUsed := rfl
@[simp] theorem setUpc_freeSdaUsed (u : Upc) (s : State) : (setUpc u s).freeSdaUsed = s.freeSdaUsed := rfl
@[simp] theorem setUpc_sclPeers (u : Upc) (s : State) : (setUpc u s).sclPeers = s.sclPeers := rfl
@[simp] theorem setUpc_sdaPeers (u : Upc) (s : State) : (setUpc u s).sdaPeers = s.sdaPeers := rfl
@[simp] theorem setUpc_freeStream (u : Upc) (s : State) : (setUpc u s).freeStream = s.freeStream := rfl
@[simp] theorem setUpc_pending (u : Upc) (s : State) : (setUpc u s).pending = s.pending := rfl
@[simp] theorem setUpc_replies (u : Upc) (s : State) : (setUpc u s).replies = s.replies := rfl

/-! ### setPollcnt -/

@[simp] theorem setPollcnt_sclOut (n : Nat) (s : State) : (setPollcnt n s).sclOut = s.sclOut := rfl
@[simp] theorem setPollcnt_sdaOut (n : Nat) (s : State) : (setPollcnt n s).sdaOut = s.sdaOut := rfl
@[simp] theorem setPollcnt_cur (n : Nat) (s : State) : (setPollcnt n s).cur = s.cur := rfl
@[simp] theorem setPollcnt_shift (n : Nat) (s : State) : (setPollcnt n s).shift = s.shift := rfl
@[simp] theorem setPollcnt_bitcnt (n : Nat) (s : State) : (setPollcnt n s).bitcnt = s.bitcnt := rfl
@[simp] theorem setPollcnt_pollcnt (n : Nat) (s : State) : (setPollcnt n s).pollcnt = n := rfl
@[simp] theorem setPollcnt_upc (n : Nat) (s : State) : (setPollcnt n s).upc = s.upc := rfl
@[simp] theorem setPollcnt_resErr (n : Nat) (s : State) : (setPollcnt n s).resErr = s.resErr := rfl
@[simp] theorem setPollcnt_resBit (n : Nat) (s : State) : (setPollcnt n s).resBit = s.resBit := rfl
@[simp] theorem setPollcnt_arbAcc (n : Nat) (s : State) : (setPollcnt n s).arbAcc = s.arbAcc := rfl
@[simp] theorem setPollcnt_rxValid (n : Nat) (s : State) : (setPollcnt n s).rxValid = s.rxValid := rfl
@[simp] theorem setPollcnt_smp (n : Nat) (s : State) : (setPollcnt n s).smp = s.smp := rfl
@[simp] theorem setPollcnt_status (n : Nat) (s : State) : (setPollcnt n s).status = s.status := rfl
@[simp] theorem setPollcnt_rst (n : Nat) (s : State) : (setPollcnt n s).rst = s.rst := rfl
@[simp] theorem setPollcnt_nPoll (n : Nat) (s : State) : (setPollcnt n s).nPoll = s.nPoll := rfl
@[simp] theorem setPollcnt_sclIn (n : Nat) (s : State) : (setPollcnt n s).sclIn = s.sclIn := rfl
@[simp] theorem setPollcnt_sdaIn (n : Nat) (s : State) : (setPollcnt n s).sdaIn = s.sdaIn := rfl
@[simp] theorem setPollcnt_freeSclUsed (n : Nat) (s : State) : (setPollcnt n s).freeSclUsed = s.freeSclUsed := rfl
@[simp] theorem setPollcnt_freeSdaUsed (n : Nat) (s : State) : (setPollcnt n s).freeSdaUsed = s.freeSdaUsed := rfl
@[simp] theorem setPollcnt_sclPeers (n : Nat) (s : State) : (setPollcnt n s).sclPeers = s.sclPeers := rfl
@[simp] theorem setPollcnt_sdaPeers (n : Nat) (s : State) : (setPollcnt n s).sdaPeers = s.sdaPeers := rfl
@[simp] theorem setPollcnt_freeStream (n : Nat) (s : State) : (setPollcnt n s).freeStream = s.freeStream := rfl
@[simp] theorem setPollcnt_pending (n : Nat) (s : State) : (setPollcnt n s).pending = s.pending := rfl
@[simp] theorem setPollcnt_replies (n : Nat) (s : State) : (setPollcnt n s).replies = s.replies := rfl

/-! ### setSmp -/

@[simp] theorem setSmp_sclOut (b : Bit) (s : State) : (setSmp b s).sclOut = s.sclOut := rfl
@[simp] theorem setSmp_sdaOut (b : Bit) (s : State) : (setSmp b s).sdaOut = s.sdaOut := rfl
@[simp] theorem setSmp_cur (b : Bit) (s : State) : (setSmp b s).cur = s.cur := rfl
@[simp] theorem setSmp_shift (b : Bit) (s : State) : (setSmp b s).shift = s.shift := rfl
@[simp] theorem setSmp_bitcnt (b : Bit) (s : State) : (setSmp b s).bitcnt = s.bitcnt := rfl
@[simp] theorem setSmp_pollcnt (b : Bit) (s : State) : (setSmp b s).pollcnt = s.pollcnt := rfl
@[simp] theorem setSmp_upc (b : Bit) (s : State) : (setSmp b s).upc = s.upc := rfl
@[simp] theorem setSmp_resErr (b : Bit) (s : State) : (setSmp b s).resErr = s.resErr := rfl
@[simp] theorem setSmp_resBit (b : Bit) (s : State) : (setSmp b s).resBit = s.resBit := rfl
@[simp] theorem setSmp_arbAcc (b : Bit) (s : State) : (setSmp b s).arbAcc = s.arbAcc := rfl
@[simp] theorem setSmp_rxValid (b : Bit) (s : State) : (setSmp b s).rxValid = s.rxValid := rfl
@[simp] theorem setSmp_smp (b : Bit) (s : State) : (setSmp b s).smp = b := rfl
@[simp] theorem setSmp_status (b : Bit) (s : State) : (setSmp b s).status = s.status := rfl
@[simp] theorem setSmp_rst (b : Bit) (s : State) : (setSmp b s).rst = s.rst := rfl
@[simp] theorem setSmp_nPoll (b : Bit) (s : State) : (setSmp b s).nPoll = s.nPoll := rfl
@[simp] theorem setSmp_sclIn (b : Bit) (s : State) : (setSmp b s).sclIn = s.sclIn := rfl
@[simp] theorem setSmp_sdaIn (b : Bit) (s : State) : (setSmp b s).sdaIn = s.sdaIn := rfl
@[simp] theorem setSmp_freeSclUsed (b : Bit) (s : State) : (setSmp b s).freeSclUsed = s.freeSclUsed := rfl
@[simp] theorem setSmp_freeSdaUsed (b : Bit) (s : State) : (setSmp b s).freeSdaUsed = s.freeSdaUsed := rfl
@[simp] theorem setSmp_sclPeers (b : Bit) (s : State) : (setSmp b s).sclPeers = s.sclPeers := rfl
@[simp] theorem setSmp_sdaPeers (b : Bit) (s : State) : (setSmp b s).sdaPeers = s.sdaPeers := rfl
@[simp] theorem setSmp_freeStream (b : Bit) (s : State) : (setSmp b s).freeStream = s.freeStream := rfl
@[simp] theorem setSmp_pending (b : Bit) (s : State) : (setSmp b s).pending = s.pending := rfl
@[simp] theorem setSmp_replies (b : Bit) (s : State) : (setSmp b s).replies = s.replies := rfl

/-! ### setScl -/

@[simp] theorem setScl_sclOut (v : Bit) (s : State) : (setScl v s).sclOut = v := rfl
@[simp] theorem setScl_sdaOut (v : Bit) (s : State) : (setScl v s).sdaOut = s.sdaOut := rfl
@[simp] theorem setScl_cur (v : Bit) (s : State) : (setScl v s).cur = s.cur := rfl
@[simp] theorem setScl_shift (v : Bit) (s : State) : (setScl v s).shift = s.shift := rfl
@[simp] theorem setScl_bitcnt (v : Bit) (s : State) : (setScl v s).bitcnt = s.bitcnt := rfl
@[simp] theorem setScl_pollcnt (v : Bit) (s : State) : (setScl v s).pollcnt = s.pollcnt := rfl
@[simp] theorem setScl_upc (v : Bit) (s : State) : (setScl v s).upc = s.upc := rfl
@[simp] theorem setScl_resErr (v : Bit) (s : State) : (setScl v s).resErr = s.resErr := rfl
@[simp] theorem setScl_resBit (v : Bit) (s : State) : (setScl v s).resBit = s.resBit := rfl
@[simp] theorem setScl_arbAcc (v : Bit) (s : State) : (setScl v s).arbAcc = s.arbAcc := rfl
@[simp] theorem setScl_rxValid (v : Bit) (s : State) : (setScl v s).rxValid = s.rxValid := rfl
@[simp] theorem setScl_smp (v : Bit) (s : State) : (setScl v s).smp = s.smp := rfl
@[simp] theorem setScl_status (v : Bit) (s : State) : (setScl v s).status = s.status := rfl
@[simp] theorem setScl_rst (v : Bit) (s : State) : (setScl v s).rst = s.rst := rfl
@[simp] theorem setScl_nPoll (v : Bit) (s : State) : (setScl v s).nPoll = s.nPoll := rfl
@[simp] theorem setScl_sclIn (v : Bit) (s : State) : (setScl v s).sclIn = s.sclIn := rfl
@[simp] theorem setScl_sdaIn (v : Bit) (s : State) : (setScl v s).sdaIn = s.sdaIn := rfl
@[simp] theorem setScl_freeSclUsed (v : Bit) (s : State) : (setScl v s).freeSclUsed = s.freeSclUsed := rfl
@[simp] theorem setScl_freeSdaUsed (v : Bit) (s : State) : (setScl v s).freeSdaUsed = s.freeSdaUsed := rfl
@[simp] theorem setScl_sclPeers (v : Bit) (s : State) : (setScl v s).sclPeers = s.sclPeers := rfl
@[simp] theorem setScl_sdaPeers (v : Bit) (s : State) : (setScl v s).sdaPeers = s.sdaPeers := rfl
@[simp] theorem setScl_freeStream (v : Bit) (s : State) : (setScl v s).freeStream = s.freeStream := rfl
@[simp] theorem setScl_pending (v : Bit) (s : State) : (setScl v s).pending = s.pending := rfl
@[simp] theorem setScl_replies (v : Bit) (s : State) : (setScl v s).replies = s.replies := rfl

/-! ### setSda -/

@[simp] theorem setSda_sclOut (v : Bit) (s : State) : (setSda v s).sclOut = s.sclOut := rfl
@[simp] theorem setSda_sdaOut (v : Bit) (s : State) : (setSda v s).sdaOut = v := rfl
@[simp] theorem setSda_cur (v : Bit) (s : State) : (setSda v s).cur = s.cur := rfl
@[simp] theorem setSda_shift (v : Bit) (s : State) : (setSda v s).shift = s.shift := rfl
@[simp] theorem setSda_bitcnt (v : Bit) (s : State) : (setSda v s).bitcnt = s.bitcnt := rfl
@[simp] theorem setSda_pollcnt (v : Bit) (s : State) : (setSda v s).pollcnt = s.pollcnt := rfl
@[simp] theorem setSda_upc (v : Bit) (s : State) : (setSda v s).upc = s.upc := rfl
@[simp] theorem setSda_resErr (v : Bit) (s : State) : (setSda v s).resErr = s.resErr := rfl
@[simp] theorem setSda_resBit (v : Bit) (s : State) : (setSda v s).resBit = s.resBit := rfl
@[simp] theorem setSda_arbAcc (v : Bit) (s : State) : (setSda v s).arbAcc = s.arbAcc := rfl
@[simp] theorem setSda_rxValid (v : Bit) (s : State) : (setSda v s).rxValid = s.rxValid := rfl
@[simp] theorem setSda_smp (v : Bit) (s : State) : (setSda v s).smp = s.smp := rfl
@[simp] theorem setSda_status (v : Bit) (s : State) : (setSda v s).status = s.status := rfl
@[simp] theorem setSda_rst (v : Bit) (s : State) : (setSda v s).rst = s.rst := rfl
@[simp] theorem setSda_nPoll (v : Bit) (s : State) : (setSda v s).nPoll = s.nPoll := rfl
@[simp] theorem setSda_sclIn (v : Bit) (s : State) : (setSda v s).sclIn = s.sclIn := rfl
@[simp] theorem setSda_sdaIn (v : Bit) (s : State) : (setSda v s).sdaIn = s.sdaIn := rfl
@[simp] theorem setSda_freeSclUsed (v : Bit) (s : State) : (setSda v s).freeSclUsed = s.freeSclUsed := rfl
@[simp] theorem setSda_freeSdaUsed (v : Bit) (s : State) : (setSda v s).freeSdaUsed = s.freeSdaUsed := rfl
@[simp] theorem setSda_sclPeers (v : Bit) (s : State) : (setSda v s).sclPeers = s.sclPeers := rfl
@[simp] theorem setSda_sdaPeers (v : Bit) (s : State) : (setSda v s).sdaPeers = s.sdaPeers := rfl
@[simp] theorem setSda_freeStream (v : Bit) (s : State) : (setSda v s).freeStream = s.freeStream := rfl
@[simp] theorem setSda_pending (v : Bit) (s : State) : (setSda v s).pending = s.pending := rfl
@[simp] theorem setSda_replies (v : Bit) (s : State) : (setSda v s).replies = s.replies := rfl

/-! ### raise -/

@[simp] theorem raise_sclOut (e : ErrCode) (s : State) : (raise e s).sclOut = s.sclOut := rfl
@[simp] theorem raise_sdaOut (e : ErrCode) (s : State) : (raise e s).sdaOut = s.sdaOut := rfl
@[simp] theorem raise_cur (e : ErrCode) (s : State) : (raise e s).cur = s.cur := rfl
@[simp] theorem raise_shift (e : ErrCode) (s : State) : (raise e s).shift = s.shift := rfl
@[simp] theorem raise_bitcnt (e : ErrCode) (s : State) : (raise e s).bitcnt = s.bitcnt := rfl
@[simp] theorem raise_pollcnt (e : ErrCode) (s : State) : (raise e s).pollcnt = s.pollcnt := rfl
@[simp] theorem raise_upc (e : ErrCode) (s : State) : (raise e s).upc = .fin := rfl
@[simp] theorem raise_resErr (e : ErrCode) (s : State) : (raise e s).resErr = e.code := rfl
@[simp] theorem raise_resBit (e : ErrCode) (s : State) : (raise e s).resBit = s.resBit := rfl
@[simp] theorem raise_arbAcc (e : ErrCode) (s : State) : (raise e s).arbAcc = s.arbAcc := rfl
@[simp] theorem raise_rxValid (e : ErrCode) (s : State) : (raise e s).rxValid = s.rxValid := rfl
@[simp] theorem raise_smp (e : ErrCode) (s : State) : (raise e s).smp = s.smp := rfl
@[simp] theorem raise_status (e : ErrCode) (s : State) : (raise e s).status = s.status := rfl
@[simp] theorem raise_rst (e : ErrCode) (s : State) : (raise e s).rst = s.rst := rfl
@[simp] theorem raise_nPoll (e : ErrCode) (s : State) : (raise e s).nPoll = s.nPoll := rfl
@[simp] theorem raise_sclIn (e : ErrCode) (s : State) : (raise e s).sclIn = s.sclIn := rfl
@[simp] theorem raise_sdaIn (e : ErrCode) (s : State) : (raise e s).sdaIn = s.sdaIn := rfl
@[simp] theorem raise_freeSclUsed (e : ErrCode) (s : State) : (raise e s).freeSclUsed = s.freeSclUsed := rfl
@[simp] theorem raise_freeSdaUsed (e : ErrCode) (s : State) : (raise e s).freeSdaUsed = s.freeSdaUsed := rfl
@[simp] theorem raise_sclPeers (e : ErrCode) (s : State) : (raise e s).sclPeers = s.sclPeers := rfl
@[simp] theorem raise_sdaPeers (e : ErrCode) (s : State) : (raise e s).sdaPeers = s.sdaPeers := rfl
@[simp] theorem raise_freeStream (e : ErrCode) (s : State) : (raise e s).freeStream = s.freeStream := rfl
@[simp] theorem raise_pending (e : ErrCode) (s : State) : (raise e s).pending = s.pending := rfl
@[simp] theorem raise_replies (e : ErrCode) (s : State) : (raise e s).replies = s.replies := rfl

/-! ### discard -/

@[simp] theorem discard_sclOut (s : State) : (discard s).sclOut = s.sclOut := rfl
@[simp] theorem discard_sdaOut (s : State) : (discard s).sdaOut = s.sdaOut := rfl
@[simp] theorem discard_cur (s : State) : (discard s).cur = s.cur := rfl
@[simp] theorem discard_shift (s : State) : (discard s).shift = s.shift := rfl
@[simp] theorem discard_bitcnt (s : State) : (discard s).bitcnt = s.bitcnt := rfl
@[simp] theorem discard_pollcnt (s : State) : (discard s).pollcnt = s.pollcnt := rfl
@[simp] theorem discard_upc (s : State) : (discard s).upc = s.upc := rfl
@[simp] theorem discard_resErr (s : State) : (discard s).resErr = s.resErr := rfl
@[simp] theorem discard_resBit (s : State) : (discard s).resBit = s.resBit := rfl
@[simp] theorem discard_arbAcc (s : State) : (discard s).arbAcc = s.arbAcc := rfl
@[simp] theorem discard_rxValid (s : State) : (discard s).rxValid = s.rxValid := rfl
@[simp] theorem discard_smp (s : State) : (discard s).smp = s.smp := rfl
@[simp] theorem discard_status (s : State) : (discard s).status = s.status.discarded := rfl
@[simp] theorem discard_rst (s : State) : (discard s).rst = s.rst := rfl
@[simp] theorem discard_nPoll (s : State) : (discard s).nPoll = s.nPoll := rfl
@[simp] theorem discard_sclIn (s : State) : (discard s).sclIn = s.sclIn := rfl
@[simp] theorem discard_sdaIn (s : State) : (discard s).sdaIn = s.sdaIn := rfl
@[simp] theorem discard_freeSclUsed (s : State) : (discard s).freeSclUsed = s.freeSclUsed := rfl
@[simp] theorem discard_freeSdaUsed (s : State) : (discard s).freeSdaUsed = s.freeSdaUsed := rfl
@[simp] theorem discard_sclPeers (s : State) : (discard s).sclPeers = s.sclPeers := rfl
@[simp] theorem discard_sdaPeers (s : State) : (discard s).sdaPeers = s.sdaPeers := rfl
@[simp] theorem discard_freeStream (s : State) : (discard s).freeStream = s.freeStream := rfl
@[simp] theorem discard_pending (s : State) : (discard s).pending = s.pending := rfl
@[simp] theorem discard_replies (s : State) : (discard s).replies = s.replies := rfl

/-! ### reply -/

@[simp] theorem reply_sclOut (w : Word) (s : State) : (reply w s).sclOut = s.sclOut := rfl
@[simp] theorem reply_sdaOut (w : Word) (s : State) : (reply w s).sdaOut = s.sdaOut := rfl
@[simp] theorem reply_cur (w : Word) (s : State) : (reply w s).cur = s.cur := rfl
@[simp] theorem reply_shift (w : Word) (s : State) : (reply w s).shift = s.shift := rfl
@[simp] theorem reply_bitcnt (w : Word) (s : State) : (reply w s).bitcnt = s.bitcnt := rfl
@[simp] theorem reply_pollcnt (w : Word) (s : State) : (reply w s).pollcnt = s.pollcnt := rfl
@[simp] theorem reply_upc (w : Word) (s : State) : (reply w s).upc = s.upc := rfl
@[simp] theorem reply_resErr (w : Word) (s : State) : (reply w s).resErr = s.resErr := rfl
@[simp] theorem reply_resBit (w : Word) (s : State) : (reply w s).resBit = s.resBit := rfl
@[simp] theorem reply_arbAcc (w : Word) (s : State) : (reply w s).arbAcc = s.arbAcc := rfl
@[simp] theorem reply_rxValid (w : Word) (s : State) : (reply w s).rxValid = s.rxValid := rfl
@[simp] theorem reply_smp (w : Word) (s : State) : (reply w s).smp = s.smp := rfl
@[simp] theorem reply_status (w : Word) (s : State) : (reply w s).status = s.status := rfl
@[simp] theorem reply_rst (w : Word) (s : State) : (reply w s).rst = s.rst := rfl
@[simp] theorem reply_nPoll (w : Word) (s : State) : (reply w s).nPoll = s.nPoll := rfl
@[simp] theorem reply_sclIn (w : Word) (s : State) : (reply w s).sclIn = s.sclIn := rfl
@[simp] theorem reply_sdaIn (w : Word) (s : State) : (reply w s).sdaIn = s.sdaIn := rfl
@[simp] theorem reply_freeSclUsed (w : Word) (s : State) : (reply w s).freeSclUsed = s.freeSclUsed := rfl
@[simp] theorem reply_freeSdaUsed (w : Word) (s : State) : (reply w s).freeSdaUsed = s.freeSdaUsed := rfl
@[simp] theorem reply_sclPeers (w : Word) (s : State) : (reply w s).sclPeers = s.sclPeers := rfl
@[simp] theorem reply_sdaPeers (w : Word) (s : State) : (reply w s).sdaPeers = s.sdaPeers := rfl
@[simp] theorem reply_freeStream (w : Word) (s : State) : (reply w s).freeStream = s.freeStream := rfl
@[simp] theorem reply_pending (w : Word) (s : State) : (reply w s).pending = s.pending := rfl
@[simp] theorem reply_replies (w : Word) (s : State) : (reply w s).replies = w :: s.replies := rfl

/-! ### finish -/

@[simp] theorem finish_sclOut (s : State) : (finish s).sclOut = s.sclOut := rfl
@[simp] theorem finish_sdaOut (s : State) : (finish s).sdaOut = s.sdaOut := rfl
@[simp] theorem finish_cur (s : State) : (finish s).cur = s.cur := rfl
@[simp] theorem finish_shift (s : State) : (finish s).shift = s.shift := rfl
@[simp] theorem finish_bitcnt (s : State) : (finish s).bitcnt = s.bitcnt := rfl
@[simp] theorem finish_pollcnt (s : State) : (finish s).pollcnt = s.pollcnt := rfl
@[simp] theorem finish_upc (s : State) : (finish s).upc = .idle := rfl
@[simp] theorem finish_resErr (s : State) : (finish s).resErr = s.resErr := rfl
@[simp] theorem finish_resBit (s : State) : (finish s).resBit = s.resBit := rfl
@[simp] theorem finish_arbAcc (s : State) : (finish s).arbAcc = s.arbAcc := rfl
@[simp] theorem finish_rxValid (s : State) : (finish s).rxValid = s.rxValid := rfl
@[simp] theorem finish_smp (s : State) : (finish s).smp = s.smp := rfl
@[simp] theorem finish_status (s : State) : (finish s).status = s.status.finished s.resErr s.resBit s.arbAcc (if s.rxValid then some s.shift else none) := rfl
@[simp] theorem finish_rst (s : State) : (finish s).rst = s.rst := rfl
@[simp] theorem finish_nPoll (s : State) : (finish s).nPoll = s.nPoll := rfl
@[simp] theorem finish_sclIn (s : State) : (finish s).sclIn = s.sclIn := rfl
@[simp] theorem finish_sdaIn (s : State) : (finish s).sdaIn = s.sdaIn := rfl
@[simp] theorem finish_freeSclUsed (s : State) : (finish s).freeSclUsed = s.freeSclUsed := rfl
@[simp] theorem finish_freeSdaUsed (s : State) : (finish s).freeSdaUsed = s.freeSdaUsed := rfl
@[simp] theorem finish_sclPeers (s : State) : (finish s).sclPeers = s.sclPeers := rfl
@[simp] theorem finish_sdaPeers (s : State) : (finish s).sdaPeers = s.sdaPeers := rfl
@[simp] theorem finish_freeStream (s : State) : (finish s).freeStream = s.freeStream := rfl
@[simp] theorem finish_pending (s : State) : (finish s).pending = s.pending := rfl
@[simp] theorem finish_replies (s : State) : (finish s).replies = s.replies := rfl

/-! ### drawScl -/

@[simp] theorem drawScl_sclOut (s : State) : (drawScl s).sclOut = s.sclOut := rfl
@[simp] theorem drawScl_sdaOut (s : State) : (drawScl s).sdaOut = s.sdaOut := rfl
@[simp] theorem drawScl_cur (s : State) : (drawScl s).cur = s.cur := rfl
@[simp] theorem drawScl_shift (s : State) : (drawScl s).shift = s.shift := rfl
@[simp] theorem drawScl_bitcnt (s : State) : (drawScl s).bitcnt = s.bitcnt := rfl
@[simp] theorem drawScl_pollcnt (s : State) : (drawScl s).pollcnt = s.pollcnt := rfl
@[simp] theorem drawScl_upc (s : State) : (drawScl s).upc = s.upc := rfl
@[simp] theorem drawScl_resErr (s : State) : (drawScl s).resErr = s.resErr := rfl
@[simp] theorem drawScl_resBit (s : State) : (drawScl s).resBit = s.resBit := rfl
@[simp] theorem drawScl_arbAcc (s : State) : (drawScl s).arbAcc = s.arbAcc := rfl
@[simp] theorem drawScl_rxValid (s : State) : (drawScl s).rxValid = s.rxValid := rfl
@[simp] theorem drawScl_smp (s : State) : (drawScl s).smp = s.smp := rfl
@[simp] theorem drawScl_status (s : State) : (drawScl s).status = s.status := rfl
@[simp] theorem drawScl_rst (s : State) : (drawScl s).rst = s.rst := rfl
@[simp] theorem drawScl_nPoll (s : State) : (drawScl s).nPoll = s.nPoll := rfl
@[simp] theorem drawScl_sclIn (s : State) : (drawScl s).sclIn = s.sclIn.tail := rfl
@[simp] theorem drawScl_sdaIn (s : State) : (drawScl s).sdaIn = s.sdaIn := rfl
@[simp] theorem drawScl_freeSclUsed (s : State) : (drawScl s).freeSclUsed = if s.sclIn.isEmpty then s.freeSclUsed + 1 else s.freeSclUsed := rfl
@[simp] theorem drawScl_freeSdaUsed (s : State) : (drawScl s).freeSdaUsed = s.freeSdaUsed := rfl
@[simp] theorem drawScl_sclPeers (s : State) : (drawScl s).sclPeers = s.sclPeers := rfl
@[simp] theorem drawScl_sdaPeers (s : State) : (drawScl s).sdaPeers = s.sdaPeers := rfl
@[simp] theorem drawScl_freeStream (s : State) : (drawScl s).freeStream = s.freeStream := rfl
@[simp] theorem drawScl_pending (s : State) : (drawScl s).pending = s.pending := rfl
@[simp] theorem drawScl_replies (s : State) : (drawScl s).replies = s.replies := rfl

/-! ### drawSda -/

@[simp] theorem drawSda_sclOut (s : State) : (drawSda s).sclOut = s.sclOut := rfl
@[simp] theorem drawSda_sdaOut (s : State) : (drawSda s).sdaOut = s.sdaOut := rfl
@[simp] theorem drawSda_cur (s : State) : (drawSda s).cur = s.cur := rfl
@[simp] theorem drawSda_shift (s : State) : (drawSda s).shift = s.shift := rfl
@[simp] theorem drawSda_bitcnt (s : State) : (drawSda s).bitcnt = s.bitcnt := rfl
@[simp] theorem drawSda_pollcnt (s : State) : (drawSda s).pollcnt = s.pollcnt := rfl
@[simp] theorem drawSda_upc (s : State) : (drawSda s).upc = s.upc := rfl
@[simp] theorem drawSda_resErr (s : State) : (drawSda s).resErr = s.resErr := rfl
@[simp] theorem drawSda_resBit (s : State) : (drawSda s).resBit = s.resBit := rfl
@[simp] theorem drawSda_arbAcc (s : State) : (drawSda s).arbAcc = s.arbAcc := rfl
@[simp] theorem drawSda_rxValid (s : State) : (drawSda s).rxValid = s.rxValid := rfl
@[simp] theorem drawSda_smp (s : State) : (drawSda s).smp = s.smp := rfl
@[simp] theorem drawSda_status (s : State) : (drawSda s).status = s.status := rfl
@[simp] theorem drawSda_rst (s : State) : (drawSda s).rst = s.rst := rfl
@[simp] theorem drawSda_nPoll (s : State) : (drawSda s).nPoll = s.nPoll := rfl
@[simp] theorem drawSda_sclIn (s : State) : (drawSda s).sclIn = s.sclIn := rfl
@[simp] theorem drawSda_sdaIn (s : State) : (drawSda s).sdaIn = s.sdaIn.tail := rfl
@[simp] theorem drawSda_freeSclUsed (s : State) : (drawSda s).freeSclUsed = s.freeSclUsed := rfl
@[simp] theorem drawSda_freeSdaUsed (s : State) : (drawSda s).freeSdaUsed = if s.sdaIn.isEmpty then s.freeSdaUsed + 1 else s.freeSdaUsed := rfl
@[simp] theorem drawSda_sclPeers (s : State) : (drawSda s).sclPeers = s.sclPeers := rfl
@[simp] theorem drawSda_sdaPeers (s : State) : (drawSda s).sdaPeers = s.sdaPeers := rfl
@[simp] theorem drawSda_freeStream (s : State) : (drawSda s).freeStream = s.freeStream := rfl
@[simp] theorem drawSda_pending (s : State) : (drawSda s).pending = s.pending := rfl
@[simp] theorem drawSda_replies (s : State) : (drawSda s).replies = s.replies := rfl

/-! ### readSda -/

/-- A sample of SDA, by its two updates (R133). -/
@[simp] theorem readSda_eq (s : State) : readSda s = setSmp (sdaWire s) (drawSda s) := rfl

end Sys2Proof.Laws
end

