-- ==== Sys2Proof/Laws/Ops.lean ====
section
/-! SUPPORT. One lemma per shared operation, saying what it can do: work, samples, the entries of a step list, the engine step
and its runs, offers. -/

namespace Sys2Proof.Laws

open Sys2Proof.Machine

/-! ## Work -/

@[simp] theorem doWork_nil (s : State) : doWork [] s = s := rfl

@[simp] theorem doWork_cons (w : Work) (ws : List Work) (s : State) : doWork (w :: ws) s = doWork ws (w.apply s) := rfl

theorem doWork_append (ws vs : List Work) (s : State) : doWork (ws ++ vs) s = doWork vs (doWork ws s) := by
  simp [doWork, List.foldl_append]

/-- What no work touches: the lines, CUR, STATUS, SMP, and everything that is no register of the I2CBB. -/
structure KeepsOutside (s t : State) : Prop where
  sclOut : t.sclOut = s.sclOut
  sdaOut : t.sdaOut = s.sdaOut
  cur : t.cur = s.cur
  smp : t.smp = s.smp
  status : t.status = s.status
  rst : t.rst = s.rst
  nPoll : t.nPoll = s.nPoll
  sclPeers : t.sclPeers = s.sclPeers
  sdaPeers : t.sdaPeers = s.sdaPeers
  freeStream : t.freeStream = s.freeStream
  sclIn : t.sclIn = s.sclIn
  sdaIn : t.sdaIn = s.sdaIn
  freeSclUsed : t.freeSclUsed = s.freeSclUsed
  freeSdaUsed : t.freeSdaUsed = s.freeSdaUsed
  pending : t.pending = s.pending
  replies : t.replies = s.replies

theorem work_keepsOutside (w : Work) (s : State) : KeepsOutside s (w.apply s) := by
  cases w <;> simp only [Work.apply] <;> (try split) <;> constructor <;> rfl

theorem KeepsOutside.refl (s : State) : KeepsOutside s s := by constructor <;> rfl

theorem KeepsOutside.trans {s t u : State} (a : KeepsOutside s t) (b : KeepsOutside t u) : KeepsOutside s u := by
  constructor
  · rw [b.sclOut, a.sclOut]
  · rw [b.sdaOut, a.sdaOut]
  · rw [b.cur, a.cur]
  · rw [b.smp, a.smp]
  · rw [b.status, a.status]
  · rw [b.rst, a.rst]
  · rw [b.nPoll, a.nPoll]
  · rw [b.sclPeers, a.sclPeers]
  · rw [b.sdaPeers, a.sdaPeers]
  · rw [b.freeStream, a.freeStream]
  · rw [b.sclIn, a.sclIn]
  · rw [b.sdaIn, a.sdaIn]
  · rw [b.freeSclUsed, a.freeSclUsed]
  · rw [b.freeSdaUsed, a.freeSdaUsed]
  · rw [b.pending, a.pending]
  · rw [b.replies, a.replies]

theorem doWork_keepsOutside (ws : List Work) (s : State) : KeepsOutside s (doWork ws s) := by
  induction ws generalizing s with
  | nil => exact .refl s
  | cons w ws ih => exact (work_keepsOutside w s).trans (ih _)

@[simp] theorem doWork_sclOut (ws : List Work) (s : State) : (doWork ws s).sclOut = s.sclOut := (doWork_keepsOutside ws s).sclOut
@[simp] theorem doWork_sdaOut (ws : List Work) (s : State) : (doWork ws s).sdaOut = s.sdaOut := (doWork_keepsOutside ws s).sdaOut
@[simp] theorem doWork_cur (ws : List Work) (s : State) : (doWork ws s).cur = s.cur := (doWork_keepsOutside ws s).cur
@[simp] theorem doWork_smp (ws : List Work) (s : State) : (doWork ws s).smp = s.smp := (doWork_keepsOutside ws s).smp
@[simp] theorem doWork_status (ws : List Work) (s : State) : (doWork ws s).status = s.status := (doWork_keepsOutside ws s).status
@[simp] theorem doWork_rst (ws : List Work) (s : State) : (doWork ws s).rst = s.rst := (doWork_keepsOutside ws s).rst
@[simp] theorem doWork_nPoll (ws : List Work) (s : State) : (doWork ws s).nPoll = s.nPoll := (doWork_keepsOutside ws s).nPoll
@[simp] theorem doWork_sclPeers (ws : List Work) (s : State) : (doWork ws s).sclPeers = s.sclPeers := (doWork_keepsOutside ws s).sclPeers
@[simp] theorem doWork_sdaPeers (ws : List Work) (s : State) : (doWork ws s).sdaPeers = s.sdaPeers := (doWork_keepsOutside ws s).sdaPeers
@[simp] theorem doWork_freeStream (ws : List Work) (s : State) : (doWork ws s).freeStream = s.freeStream := (doWork_keepsOutside ws s).freeStream
@[simp] theorem doWork_pending (ws : List Work) (s : State) : (doWork ws s).pending = s.pending := (doWork_keepsOutside ws s).pending
@[simp] theorem doWork_replies (ws : List Work) (s : State) : (doWork ws s).replies = s.replies := (doWork_keepsOutside ws s).replies

/-! ## The Environment as a stream (R37) -/

/-- The next contribution is the one at place 0 of the stream. -/
theorem sclAt_zero (s : State) : sclAt s 0 = sclEnv s := by
  unfold sclAt sclEnv
  cases h : s.sclIn <;> simp

theorem sdaAt_zero (s : State) : sdaAt s 0 = sdaEnv s := by
  unfold sdaAt sdaEnv
  cases h : s.sdaIn <;> simp

/-- A sample moves the stream on by one. -/
@[simp] theorem sclAt_drawScl (s : State) (k : Nat) : sclAt (drawScl s) k = sclAt s (k + 1) := by
  unfold sclAt drawScl
  cases h : s.sclIn with
  | nil => simp; congr 2; omega
  | cons b later => simp

@[simp] theorem sdaAt_drawSda (s : State) (k : Nat) : sdaAt (drawSda s) k = sdaAt s (k + 1) := by
  unfold sdaAt drawSda
  cases h : s.sdaIn with
  | nil => simp; congr 2; omega
  | cons b later => simp

/-- The stream is a function of the Environment's fields alone. -/
theorem sclAt_congr {s t : State} (hp : t.sclPeers = s.sclPeers) (hi : t.sclIn = s.sclIn) (hf : t.freeStream = s.freeStream)
    (hn : t.freeSclUsed = s.freeSclUsed) : sclAt t = sclAt s := by
  funext k
  simp [sclAt, hp, hi, hf, hn]

theorem sdaAt_congr {s t : State} (hp : t.sdaPeers = s.sdaPeers) (hi : t.sdaIn = s.sdaIn) (hf : t.freeStream = s.freeStream)
    (hn : t.freeSdaUsed = s.freeSdaUsed) : sdaAt t = sdaAt s := by
  funext k
  simp [sdaAt, hp, hi, hf, hn]

/-- While another instance on the bus drives a line low, every sample of it reads 0 (R36, R262). -/
theorem sclAt_peers_low {s : State} (h : s.sclPeers = false) (k : Nat) : sclAt s k = false := by
  simp [sclAt, h]

theorem sdaAt_peers_low {s : State} (h : s.sdaPeers = false) (k : Nat) : sdaAt s k = false := by
  simp [sdaAt, h]

/-! ## The engine step -/

theorem engineStep_held {s : State} (h : s.rst = true) : engineStep s = s := by
  simp [engineStep, h]

theorem engineStep_idle {s : State} (h : s.upc = .idle) : engineStep s = s := by
  unfold engineStep
  split
  · rfl
  · rw [h]

theorem engineStep_fin {s : State} (hr : s.rst = false) (h : s.upc = .fin) : engineStep s = finish s := by
  simp [engineStep, hr, h]

theorem engineStep_run {s : State} {st : MicroStep} {rest : StepList} (hr : s.rst = false) (h : s.upc = .run st rest) :
    engineStep s = microStep st rest s := by
  simp [engineStep, hr, h]

/-- What one sample of a clock-stretch wait can do (R134, R135). -/
theorem pollScl_cases (st : MicroStep) (rest : StepList) (s : State) :
    (sclWire s = true ∧ pollScl st rest s = doWork st.after (drawScl (setPollcnt (s.pollcnt + 1) s))) ∨
    (sclWire s = false ∧ s.pollcnt + 1 < s.nPoll ∧
      pollScl st rest s = setUpc (.run { st with before := [] } rest) (drawScl (setPollcnt (s.pollcnt + 1) s))) ∨
    (sclWire s = false ∧ s.nPoll ≤ s.pollcnt + 1 ∧
      pollScl st rest s = raise .stretchTimeout (drawScl (setPollcnt (s.pollcnt + 1) s))) := by
  unfold pollScl
  cases sclWire s with
  | true => exact .inl ⟨rfl, rfl⟩
  | false =>
    by_cases h : s.pollcnt + 1 < s.nPoll
    · exact .inr (.inl ⟨rfl, h, by simp [h]⟩)
    · exact .inr (.inr ⟨rfl, by omega, by simp [h]⟩)

/-- Fields no engine step writes: CUR (R83), the inputs' levels, the parameter, the agenda and the replies. -/
structure KeepsInputs (s t : State) : Prop where
  cur : t.cur = s.cur
  rst : t.rst = s.rst
  nPoll : t.nPoll = s.nPoll
  sclPeers : t.sclPeers = s.sclPeers
  sdaPeers : t.sdaPeers = s.sdaPeers
  freeStream : t.freeStream = s.freeStream
  pending : t.pending = s.pending
  replies : t.replies = s.replies

theorem pollScl_keepsInputs (st : MicroStep) (rest : StepList) (s : State) : KeepsInputs s (pollScl st rest s) := by
  rcases pollScl_cases st rest s with ⟨-, h⟩ | ⟨-, -, h⟩ | ⟨-, -, h⟩ <;> rw [h] <;> constructor <;> simp

theorem microStep_keepsInputs (st : MicroStep) (rest : StepList) (s : State) : KeepsInputs s (microStep st rest s) := by
  unfold microStep
  cases st.prim with
  | setScl v => constructor <;> simp
  | setSda v => constructor <;> simp
  | settle => constructor <;> simp
  | readSda => constructor <;> simp
  | pollScl =>
    have h := pollScl_keepsInputs st rest (setUpc (Upc.ofList rest) (doWork st.before s))
    exact ⟨by simpa using h.cur, by simpa using h.rst, by simpa using h.nPoll, by simpa using h.sclPeers,
      by simpa using h.sdaPeers, by simpa using h.freeStream, by simpa using h.pending, by simpa using h.replies⟩

theorem engineStep_keepsInputs (s : State) : KeepsInputs s (engineStep s) := by
  unfold engineStep
  split
  · constructor <;> rfl
  · split
    · constructor <;> rfl
    · constructor <;> rfl
    · exact microStep_keepsInputs _ _ s

@[simp] theorem engineStep_cur (s : State) : (engineStep s).cur = s.cur := (engineStep_keepsInputs s).cur
@[simp] theorem engineStep_rst (s : State) : (engineStep s).rst = s.rst := (engineStep_keepsInputs s).rst
@[simp] theorem engineStep_nPoll (s : State) : (engineStep s).nPoll = s.nPoll := (engineStep_keepsInputs s).nPoll
@[simp] theorem engineStep_sclPeers (s : State) : (engineStep s).sclPeers = s.sclPeers := (engineStep_keepsInputs s).sclPeers
@[simp] theorem engineStep_sdaPeers (s : State) : (engineStep s).sdaPeers = s.sdaPeers := (engineStep_keepsInputs s).sdaPeers
@[simp] theorem engineStep_freeStream (s : State) : (engineStep s).freeStream = s.freeStream := (engineStep_keepsInputs s).freeStream
@[simp] theorem engineStep_pending (s : State) : (engineStep s).pending = s.pending := (engineStep_keepsInputs s).pending
@[simp] theorem engineStep_replies (s : State) : (engineStep s).replies = s.replies := (engineStep_keepsInputs s).replies

/-! ## Runs of engine steps -/

@[simp] theorem engineRun_zero (s : State) : engineRun 0 s = s := rfl

theorem engineRun_succ (n : Nat) (s : State) : engineRun (n + 1) s = engineRun n (engineStep s) := rfl

theorem engineRun_add (m n : Nat) (s : State) : engineRun (m + n) s = engineRun n (engineRun m s) := by
  induction m generalizing s with
  | zero => simp
  | succ m ih => rw [Nat.succ_add]; exact ih (engineStep s)

theorem engineRun_last (n : Nat) (s : State) : engineRun (n + 1) s = engineStep (engineRun n s) := engineRun_add n 1 s

theorem engineRun_fixed {s : State} (h : engineStep s = s) (n : Nat) : engineRun n s = s := by
  induction n with
  | zero => rfl
  | succ n ih => rw [engineRun_succ, h, ih]

theorem engineRun_idle {s : State} (h : s.upc = .idle) (n : Nat) : engineRun n s = s :=
  engineRun_fixed (engineStep_idle h) n

/-- Once idle, more engine steps change nothing. -/
theorem engineRun_of_idle_le {m n : Nat} {s : State} (hmn : m ≤ n) (h : (engineRun m s).upc = .idle) :
    engineRun n s = engineRun m s := by
  obtain ⟨k, rfl⟩ := Nat.exists_eq_add_of_le hmn
  rw [engineRun_add, engineRun_idle h]

@[simp] theorem engineRun_cur (n : Nat) (s : State) : (engineRun n s).cur = s.cur := by
  induction n generalizing s with
  | zero => rfl
  | succ n ih => rw [engineRun_succ, ih, engineStep_cur]

@[simp] theorem engineRun_rst (n : Nat) (s : State) : (engineRun n s).rst = s.rst := by
  induction n generalizing s with
  | zero => rfl
  | succ n ih => rw [engineRun_succ, ih, engineStep_rst]

@[simp] theorem engineRun_nPoll (n : Nat) (s : State) : (engineRun n s).nPoll = s.nPoll := by
  induction n generalizing s with
  | zero => rfl
  | succ n ih => rw [engineRun_succ, ih, engineStep_nPoll]

@[simp] theorem engineRun_sclPeers (n : Nat) (s : State) : (engineRun n s).sclPeers = s.sclPeers := by
  induction n generalizing s with
  | zero => rfl
  | succ n ih => rw [engineRun_succ, ih, engineStep_sclPeers]

@[simp] theorem engineRun_sdaPeers (n : Nat) (s : State) : (engineRun n s).sdaPeers = s.sdaPeers := by
  induction n generalizing s with
  | zero => rfl
  | succ n ih => rw [engineRun_succ, ih, engineStep_sdaPeers]

@[simp] theorem engineRun_freeStream (n : Nat) (s : State) : (engineRun n s).freeStream = s.freeStream := by
  induction n generalizing s with
  | zero => rfl
  | succ n ih => rw [engineRun_succ, ih, engineStep_freeStream]

@[simp] theorem engineRun_pending (n : Nat) (s : State) : (engineRun n s).pending = s.pending := by
  induction n generalizing s with
  | zero => rfl
  | succ n ih => rw [engineRun_succ, ih, engineStep_pending]

@[simp] theorem engineRun_replies (n : Nat) (s : State) : (engineRun n s).replies = s.replies := by
  induction n generalizing s with
  | zero => rfl
  | succ n ih => rw [engineRun_succ, ih, engineStep_replies]

/-! ## Costs -/

@[simp] theorem cost_idle (n : Nat) : Upc.idle.cost n = 0 := rfl
@[simp] theorem cost_fin (n : Nat) : Upc.fin.cost n = 1 := rfl

/-- A position with some steps left costs the first of them and what the rest costs. -/
theorem cost_run (n : Nat) (st : MicroStep) (rest : StepList) :
    (Upc.run st rest).cost n = st.cost n + (Upc.ofList rest).cost n := by
  cases rest with
  | nil => simp [Upc.cost, Upc.ofList]
  | cons a l => simp [Upc.cost, Upc.ofList, Nat.add_assoc]

theorem one_le_stepCost (n : Nat) (st : MicroStep) : 1 ≤ st.cost n := by
  unfold MicroStep.cost
  split <;> omega

/-! ## Offers -/

/-- What an offer can do (R46, R280). -/
theorem offer_cases (w : Word) (sel : Option StepList) (s : State) :
    (s.rst = true ∧ offer w sel s = s) ∨
    (s.rst = false ∧ s.status.busy = true ∧ offer w sel s = discard s) ∨
    (s.rst = false ∧ s.status.busy = false ∧ offer w sel s = accept w sel s) := by
  unfold offer
  cases s.rst <;> cases s.status.busy <;> simp

theorem accept_some (w : Word) (l : StepList) (s : State) :
    accept w (some l) s =
      { s with
        cur := w, resErr := 0#3, resBit := false, arbAcc := false, rxValid := false, bitcnt := 0#4, pollcnt := 0
        status := s.status.accepted, upc := Upc.ofList l } := rfl

theorem accept_none (w : Word) (s : State) :
    accept w none s =
      { s with
        cur := w, resErr := 3#3, resBit := false, arbAcc := false, rxValid := false, bitcnt := 0#4, pollcnt := 0
        status := s.status.accepted, upc := .fin } := rfl

end Sys2Proof.Laws
end

