-- ==== Sys2Proof/Laws/Dispatch.lean ====
section
/-! SUPPORT. Every meaning is one run of the command's step list; what a step does with each event. -/

namespace Sys2Proof.Laws

open Sys2Proof.Machine

/-- The meaning of every command, in one line: offered with its word and its step list, and run until the Engine is idle. -/
theorem exec_eq_runCommand (i : Instr) (s : State) :
    exec i s = .next (runCommand (encode i) (some (stepListOf i)) s) := by
  cases i <;> rfl

/-- No command stops the machine. -/
theorem exec_answers_next (i : Instr) (s : State) : ∃ t, exec i s = .next t := ⟨_, exec_eq_runCommand i s⟩

theorem step_nil {s : State} (h : s.pending = []) : step s = .next (engineStep s) := by
  simp [step, h]

theorem step_cons {s : State} {e : Event} {later : List Event} (h : s.pending = e :: later) :
    step s = takeEvent e { s with pending := later } := by
  simp [step, h]

theorem takeEvent_write (off : BitVec 2) (size : Nat) (v : Word) (s : State) :
    takeEvent (.write off size v) s = hostWrite off size v s := rfl

theorem takeEvent_read (off : BitVec 2) (size : Nat) (s : State) :
    takeEvent (.read off size) s = hostRead off size s := rfl

theorem takeEvent_engine (s : State) : takeEvent .engine s = .next (engineStep s) := rfl

theorem takeEvent_rst (level : Bit) (s : State) : takeEvent (.rst level) s = .next (setRst level s) := rfl

/-- What a Host read can do when it answers a next state (R77): one reply, and for LINES one sample of each line. -/
theorem hostRead_cases {off : BitVec 2} {size : Nat} {s t : State} (h : hostRead off size s = .next t) :
    size = 2 ∧ ((off ≠ 2#2 ∧ ∃ w, t = reply w s) ∨ (off = 2#2 ∧ t = readLines s)) := by
  unfold hostRead at h
  split at h
  · cases h
  · rename_i hs
    refine ⟨by omega, ?_⟩
    split at h
    · rename_i h0
      cases h
      exact .inl ⟨by rw [h0]; decide, _, rfl⟩
    · split at h
      · rename_i h1
        split at h
        · cases h
        · cases h
          exact .inl ⟨by rw [h1]; decide, _, rfl⟩
      · split at h
        · rename_i h2
          cases h
          exact .inr ⟨h2, rfl⟩
        · rename_i h2
          cases h
          exact .inl ⟨h2, _, rfl⟩

/-- What a Host write can do when it answers a next state (R46, R77). -/
theorem hostWrite_cases {off : BitVec 2} {size : Nat} {v : Word} {s t : State} (h : hostWrite off size v s = .next t) :
    size = 2 ∧ ((off = 0#2 ∧ t = offerWord v s) ∨ (off ≠ 0#2 ∧ t = s)) := by
  unfold hostWrite at h
  split at h
  · cases h
  · rename_i hs
    refine ⟨by omega, ?_⟩
    split at h
    · rename_i h0
      cases h
      exact .inl ⟨h0, rfl⟩
    · rename_i h0
      cases h
      exact .inr ⟨h0, rfl⟩

end Sys2Proof.Laws
end

