-- ==== Sys2Proof/Laws/PerInstr.lean ====
section
/-! SUPPORT. Per-instruction laws: the encoding of every instruction has the pattern of its row in the table of rule R105. -/

namespace Sys2Proof.Laws.EncodingPattern

/-- The word of an instruction selects the instruction's row of the table (R105). -/
def Statement (i : Instr) : Prop := (opcodeRow i).selects (encode i) = true

theorem recvBit : Statement .recvBit := by unfold Statement; decide

theorem sendBit (b : Bit) : Statement (.sendBit b) := by unfold Statement; revert b; decide

theorem sendByte (data : Byte) : Statement (.sendByte data) := by unfold Statement; revert data; decide

theorem recvByte : Statement .recvByte := by unfold Statement; decide

theorem start : Statement .start := by unfold Statement; decide

theorem stop : Statement .stop := by unfold Statement; decide

theorem sendAddr (id : BitVec 7) (r : Bit) : Statement (.sendAddr id r) := by unfold Statement; revert id r; decide

theorem release : Statement .release := by unfold Statement; decide

theorem recvAck : Statement .recvAck := by unfold Statement; decide

theorem sendAck : Statement .sendAck := by unfold Statement; decide

theorem sendNack : Statement .sendNack := by unfold Statement; decide

end Sys2Proof.Laws.EncodingPattern
end

