-- ==== Sys2Proof/Laws/Runs.lean ====
section
/-! SUPPORT. Runs of engine steps with their traces, joined end to end, and the sample streams along them. -/

namespace Sys2Proof.Laws

open Sys2Proof.Machine

/-! ## Runs with their traces -/

/-- From `s` the engine steps `tr`, one token each, lead to `t`. -/
structure Steps (tr : List Token) (s t : State) : Prop where
  run : engineRun tr.length s = t
  trace_eq : ∀ m, trace (tr.length + m) s = tr ++ trace m t

theorem Steps.nil (s : State) : Steps [] s s := ⟨rfl, fun m => by simp⟩

theorem Steps.append {tr tr' : List Token} {s t u : State} (a : Steps tr s t) (b : Steps tr' t u) : Steps (tr ++ tr') s u := by
  refine ⟨?_, fun m => ?_⟩
  · rw [List.length_append, engineRun_add, a.run, b.run]
  · rw [List.length_append, Nat.add_assoc, a.trace_eq, b.trace_eq, List.append_assoc]

theorem Steps.one {tok : Token} {s : State} (h : nextToken s = some tok) : Steps [tok] s (engineStep s) := by
  refine ⟨rfl, fun m => ?_⟩
  show trace (1 + m) s = _
  rw [Nat.add_comm, trace, h]
  rfl

theorem Steps.cons {tok : Token} {tr : List Token} {s u : State} (h : nextToken s = some tok)
    (b : Steps tr (engineStep s) u) : Steps (tok :: tr) s u := (Steps.one h).append b

/-- An idle engine takes no step. -/
theorem trace_idle {s : State} (h : s.upc = .idle) (n : Nat) : trace n s = [] := by
  cases n with
  | zero => rfl
  | succ n => simp [trace, nextToken, h]

/-- A run that ends idle within the cost of its position is the whole run: the trace to idle, and where it ends. -/
theorem Steps.toIdle {tr : List Token} {s t : State} (a : Steps tr s t) (hi : t.upc = .idle)
    (hc : tr.length ≤ s.upc.cost s.nPoll) : traceToIdle s = tr ∧ runToIdle s = t := by
  obtain ⟨k, hk⟩ := Nat.exists_eq_add_of_le hc
  refine ⟨?_, ?_⟩
  · rw [traceToIdle, hk, a.trace_eq, trace_idle hi, List.append_nil]
  · rw [runToIdle, hk, engineRun_add, a.run, engineRun_idle hi]

/-! ## Samples -/

/-- Some samples of SCL at once. -/
theorem dropScl_eq (n : Nat) (s : State) :
    dropScl n s = { s with sclIn := s.sclIn.drop n, freeSclUsed := s.freeSclUsed + (n - s.sclIn.length) } := by
  induction n generalizing s with
  | zero => simp [dropScl]
  | succ n ih =>
    rw [dropScl, ih, drawScl]
    cases h : s.sclIn with
    | nil => simp; omega
    | cons b l => simp

theorem sclAt_dropScl (n : Nat) (s : State) (k : Nat) : sclAt (dropScl n s) k = sclAt s (n + k) := by
  induction n generalizing s with
  | zero => simp [dropScl]
  | succ n ih => rw [dropScl, ih, sclAt_drawScl]; congr 1; omega

/-- Where the stream is read from does not matter, only what it holds there. -/
theorem waitSamples_shift (f : Nat → Bit) (a n : Nat) : waitSamples f a n = waitSamples (fun k => f (a + k)) 0 n := by
  suffices h : ∀ n a b, waitSamples f (a + b) n = waitSamples (fun k => f (a + k)) b n by simpa using h n a 0
  intro n
  induction n with
  | zero => intros; rfl
  | succ n ih =>
    intro a b
    unfold waitSamples
    rw [Nat.add_assoc, ih a (b + 1)]

/-! ## Entries of a step list -/

/-- A bit to drive depends on CUR, SHIFT and BITCNT alone. -/
theorem value_congr (v : BitSrc) {s t : State} (hc : t.cur = s.cur) (hs : t.shift = s.shift) (hb : t.bitcnt = s.bitcnt) :
    v.value t = v.value s := by
  cases v <;> simp [BitSrc.value, hc, hs, hb]

/-- The token of a position in a step list. -/
theorem nextToken_run {s : State} {st : MicroStep} {rest : StepList} (hr : s.rst = false) (hu : s.upc = .run st rest) :
    nextToken s = some (match st.prim with
      | .setScl v => .c v
      | .setSda v => .d (v.value (doWork st.before s))
      | .settle => .s
      | .pollScl => .p (sclWire s)
      | .readSda => .r (sdaWire s)) := by
  simp only [nextToken, hr, hu]
  cases st.prim <;> rfl

end Sys2Proof.Laws
end

