-- ==== Sys2Proof/Laws/System.lean ====
section
/-! SUPPORT. What an instance steps from, field by field, and what one step of a system or of a program's run can do. -/

namespace Sys2Proof.Laws

open Sys2Proof.Machine

/-! ## Systems (R262) -/

@[simp] theorem facing_sclOut (sys : System) (k : Nat) (i : Instance) : (sys.facing k i).sclOut = i.state.sclOut := rfl
@[simp] theorem facing_sdaOut (sys : System) (k : Nat) (i : Instance) : (sys.facing k i).sdaOut = i.state.sdaOut := rfl
@[simp] theorem facing_cur (sys : System) (k : Nat) (i : Instance) : (sys.facing k i).cur = i.state.cur := rfl
@[simp] theorem facing_shift (sys : System) (k : Nat) (i : Instance) : (sys.facing k i).shift = i.state.shift := rfl
@[simp] theorem facing_bitcnt (sys : System) (k : Nat) (i : Instance) : (sys.facing k i).bitcnt = i.state.bitcnt := rfl
@[simp] theorem facing_pollcnt (sys : System) (k : Nat) (i : Instance) : (sys.facing k i).pollcnt = i.state.pollcnt := rfl
@[simp] theorem facing_upc (sys : System) (k : Nat) (i : Instance) : (sys.facing k i).upc = i.state.upc := rfl
@[simp] theorem facing_resErr (sys : System) (k : Nat) (i : Instance) : (sys.facing k i).resErr = i.state.resErr := rfl
@[simp] theorem facing_resBit (sys : System) (k : Nat) (i : Instance) : (sys.facing k i).resBit = i.state.resBit := rfl
@[simp] theorem facing_arbAcc (sys : System) (k : Nat) (i : Instance) : (sys.facing k i).arbAcc = i.state.arbAcc := rfl
@[simp] theorem facing_rxValid (sys : System) (k : Nat) (i : Instance) : (sys.facing k i).rxValid = i.state.rxValid := rfl
@[simp] theorem facing_smp (sys : System) (k : Nat) (i : Instance) : (sys.facing k i).smp = i.state.smp := rfl
@[simp] theorem facing_status (sys : System) (k : Nat) (i : Instance) : (sys.facing k i).status = i.state.status := rfl
@[simp] theorem facing_rst (sys : System) (k : Nat) (i : Instance) : (sys.facing k i).rst = i.state.rst := rfl
@[simp] theorem facing_nPoll (sys : System) (k : Nat) (i : Instance) : (sys.facing k i).nPoll = i.state.nPoll := rfl
@[simp] theorem facing_sclIn (sys : System) (k : Nat) (i : Instance) : (sys.facing k i).sclIn = i.state.sclIn := rfl
@[simp] theorem facing_sdaIn (sys : System) (k : Nat) (i : Instance) : (sys.facing k i).sdaIn = i.state.sdaIn := rfl
@[simp] theorem facing_freeStream (sys : System) (k : Nat) (i : Instance) : (sys.facing k i).freeStream = i.state.freeStream := rfl
@[simp] theorem facing_freeSclUsed (sys : System) (k : Nat) (i : Instance) : (sys.facing k i).freeSclUsed = i.state.freeSclUsed := rfl
@[simp] theorem facing_freeSdaUsed (sys : System) (k : Nat) (i : Instance) : (sys.facing k i).freeSdaUsed = i.state.freeSdaUsed := rfl
@[simp] theorem facing_pending (sys : System) (k : Nat) (i : Instance) : (sys.facing k i).pending = i.state.pending := rfl
@[simp] theorem facing_replies (sys : System) (k : Nat) (i : Instance) : (sys.facing k i).replies = i.state.replies := rfl
@[simp] theorem facing_sclPeers (sys : System) (k : Nat) (i : Instance) :
    (sys.facing k i).sclPeers = sys.released (·.sclOut) k i.bus := rfl
@[simp] theorem facing_sdaPeers (sys : System) (k : Nat) (i : Instance) :
    (sys.facing k i).sdaPeers = sys.released (·.sdaOut) k i.bus := rfl

/-- What a step of a system can do when it answers a next one. -/
theorem stepInstance_cases {sys after : System} {k : Nat} (h : System.stepInstance sys k = some (.next after)) :
    ∃ i t, sys[k]? = some i ∧ step (sys.facing k i) = .next t ∧ after = sys.set k { i with state := t } := by
  unfold System.stepInstance at h
  split at h
  · cases h
  · rename_i i hi
    split at h
    · rename_i t ht
      cases h
      exact ⟨i, t, hi, ht, rfl⟩
    · cases h
    · cases h

/-! ## Runs with the Host's moves (R310) -/

@[simp] theorem nextMove_nil {s : State} (h : s.pending = []) : nextMove s = .engine := by simp [nextMove, h]

@[simp] theorem nextMove_cons {s : State} {e : Event} {later : List Event} (h : s.pending = e :: later) : nextMove s = e := by
  simp [nextMove, h]

/-- The moves that are no Finish and start no command leave the Finish of the last one as it was. -/
@[simp] theorem finished_rst (level : Bit) (s : State) (was : Bool) : (Event.rst level).finished s was = was := by
  simp [Event.finished, Event.seen, Event.accepted, statusesSeen]

@[simp] theorem finished_read (off : BitVec 2) (size : Nat) (s : State) (was : Bool) :
    (Event.read off size).finished s was = was := by
  by_cases h : off = 0x2#2 <;> simp [Event.finished, Event.seen, Event.accepted, statusesSeen, h]

/-- What one step of a run can do. -/
theorem programNext_cases {r r' : ProgramRun} (h : r.next = some r') :
    ∃ t, step r.machine = .next t
      ∧ r' =
        { machine := t
          seen := r.seen ++ (nextMove r.machine).seen r.machine
          accepted := r.accepted ++ (nextMove r.machine).accepted r.machine
          finished := (nextMove r.machine).finished r.machine r.finished
          endRead :=
            (nextMove r.machine).endRead r.machine t ((nextMove r.machine).finished r.machine r.finished) r.endRead } := by
  unfold ProgramRun.next at h
  split at h
  · rename_i t ht
    cases h
    exact ⟨t, ht, rfl⟩
  · cases h
  · cases h

end Sys2Proof.Laws
end

