-- ==== Sys2Proof/Tests/Slice0.lean ====
section
/-! SUPPORT. Tests against the vectors of 95_test_vectors.md (named in each docstring), decoding of words written out from
30_encoding.md, the well-formedness smoke test, and for every statement with hypotheses a state that meets them. -/

namespace Sys2Proof.Tests

open Sys2Proof.Machine

/-! ## Helpers -/

/-- A finished command's state (STATUS 0x0002) with the lines and the coming samples given. -/
def bus (nPoll : Nat) (sclOut sdaOut : Bit) (scl sda : List Bit) : State :=
  { State.reset with
    nPoll := nPoll, sclOut := sclOut, sdaOut := sdaOut, sclIn := scl, sdaIn := sda
    status := { Status.reset with done := true } }

/-- STATUS and the lines of a next state. -/
def shown : Host.Outcome State Fault Refusal → Option (Word × Bit × Bit)
  | .next t => some (t.status.word, t.sclOut, t.sdaOut)
  | .fault _ => none
  | .refused _ => none

/-- The replies of a next state, newest first. -/
def replied : Host.Outcome State Fault Refusal → Option (List Word)
  | .next t => some t.replies
  | .fault _ => none
  | .refused _ => none

/-- High samples. -/
def highs (n : Nat) : List Bit := List.replicate n true

/-- Low samples. -/
def lows (n : Nat) : List Bit := List.replicate n false

/-! ## Well-formedness: the one check, and the terms it refuses (R112: "An alias has no word of its own.") -/

theorem test_wf_refuses_recvAck : Instr.recvAck.wellFormed = false := by decide
theorem test_wf_refuses_sendAck : Instr.sendAck.wellFormed = false := by decide
theorem test_wf_refuses_sendNack : Instr.sendNack.wellFormed = false := by decide
theorem test_wf_admits_commands :
    ∀ i ∈ [Instr.recvBit, .sendBit true, .sendByte 0xFF#8, .recvByte, .start, .stop, .sendAddr 0x7F#7 true, .release],
      i.wellFormed = true := by decide

/-! ## Decoding, the words bit by bit: ARG (15:8), RSV (7:5), R (4), OP (3:0) of R101, R102 and R103 -/

theorem test_decode_recvBit : decode (0b00000000#8 ++ 0b000#3 ++ 0b0#1 ++ 0b0001#4) = .command .recvBit := by decide
theorem test_decode_sendBit_1 : decode (0b00000001#8 ++ 0b000#3 ++ 0b0#1 ++ 0b0010#4) = .command (.sendBit true) := by decide
theorem test_decode_sendBit_0 : decode (0b00000000#8 ++ 0b000#3 ++ 0b0#1 ++ 0b0010#4) = .command (.sendBit false) := by decide
theorem test_decode_sendByte :
    decode (0b10100101#8 ++ 0b000#3 ++ 0b0#1 ++ 0b0011#4) = .command (.sendByte 0xA5#8) := by decide
theorem test_decode_recvByte : decode (0b00000000#8 ++ 0b000#3 ++ 0b0#1 ++ 0b0100#4) = .command .recvByte := by decide
theorem test_decode_start : decode (0b00000000#8 ++ 0b000#3 ++ 0b0#1 ++ 0b0101#4) = .command .start := by decide
theorem test_decode_stop : decode (0b00000000#8 ++ 0b000#3 ++ 0b0#1 ++ 0b0110#4) = .command .stop := by decide
theorem test_decode_sendAddr_read :
    decode (0b0#1 ++ 0b1010000#7 ++ 0b000#3 ++ 0b1#1 ++ 0b0111#4) = .command (.sendAddr 0x50#7 true) := by decide
theorem test_decode_sendAddr_write :
    decode (0b0#1 ++ 0b0010110#7 ++ 0b000#3 ++ 0b0#1 ++ 0b0111#4) = .command (.sendAddr 0x16#7 false) := by decide
theorem test_decode_release : decode (0b00000000#8 ++ 0b000#3 ++ 0b0#1 ++ 0b1000#4) = .command .release := by decide
/-- The illegal rows of 95's decode table. -/
theorem test_decode_illegal :
    [0x0101#16, 0x0202#16, 0x0013#16, 0x0105#16, 0x8007#16, 0x0027#16, 0x0000#16, 0x0009#16, 0x000F#16, 0xFFFF#16].all
      (fun w => !isLegal w) = true := by decide
/-- The alias words (E8). -/
theorem test_encode_aliases :
    encode .recvAck = 0x0001#16 ∧ encode .sendAck = 0x0002#16 ∧ encode .sendNack = 0x0102#16 := by decide
/-- A table word wider than its row is no word of the table. -/
theorem test_decodeTableWord_bounds : decodeTableWord 16 0x15017 = none ∧ decodeTableWord 16 0x5017 = some (.sendAddr 0x50#7 true) := by
  decide

/-! ## Commands: STATUS and lines after them -/

/-- V-B3. -/
theorem test_recvBit_stretched :
    shown (exec .recvBit (bus 3 false true [false, false, true] [false])) = some (0x0002#16, false, true) := by decide +kernel
/-- V-B4. -/
theorem test_recvBit_timeout : shown (exec .recvBit (bus 3 false true (lows 3) [])) = some (0x0012#16, true, true) := by
  decide +kernel
/-- V-B1, by its alias RECV_ACK. -/
theorem test_recvAck_nack : shown (exec .recvAck (bus 1 false true [true] [true])) = some (0x0082#16, false, true) := by
  decide +kernel
/-- V-B7. -/
theorem test_sendBit_arbLost :
    shown (exec (.sendBit true) (bus 1 false true [true] [false])) = some (0x0042#16, false, true) := by decide +kernel
/-- V-B9: no read-back after a timeout. -/
theorem test_sendBit_timeout :
    shown (exec (.sendBit true) (bus 2 false true (lows 2) [false])) = some (0x0012#16, true, true) := by decide +kernel
/-- V-B5, by its alias SEND_ACK. -/
theorem test_sendAck : shown (exec .sendAck (bus 1 false true [true] [true])) = some (0x0002#16, false, false) := by
  decide +kernel
/-- V-B6, by its alias SEND_NACK. -/
theorem test_sendNack : shown (exec .sendNack (bus 1 false true [true] [true])) = some (0x0002#16, false, true) := by
  decide +kernel
/-- V-Y4. -/
theorem test_sendByte_arbLost :
    shown (exec (.sendByte 0x80#8) (bus 1 false false (highs 9) (false :: highs 7 ++ [false])))
      = some (0x0042#16, false, true) := by decide +kernel
/-- V-Y6: a loss, then a timeout. -/
theorem test_sendByte_lossThenTimeout :
    shown (exec (.sendByte 0xC0#8) (bus 2 false false [true, false, false] [false])) = some (0x0052#16, true, true) := by
  decide +kernel
/-- V-Y8. -/
theorem test_recvByte_5A :
    shown (exec .recvByte (bus 2 false false (highs 9) [false, true, false, true, true, false, true, false]))
      = some (0x5A02#16, false, false) := by decide +kernel
/-- V-Y11: RXDATA is written although the acknowledge slot timed out. -/
theorem test_recvByte_ackTimeout :
    shown (exec .recvByte (bus 2 false false (highs 8 ++ lows 2) [false, true, false, true, true, false, true, false]))
      = some (0x5A12#16, true, false) := by decide +kernel
/-- V-S1. -/
theorem test_start_idleBus : shown (exec .start (bus 1 true true [] [true])) = some (0x0002#16, false, false) := by
  decide +kernel
/-- V-S2. -/
theorem test_start_conflict : shown (exec .start (bus 1 true true [] [false])) = some (0x000A#16, true, true) := by
  decide +kernel
/-- V-S4b. -/
theorem test_stop : shown (exec .stop (bus 1 false false [true] [])) = some (0x0002#16, true, true) := by decide +kernel
/-- V-S5. -/
theorem test_stop_timeout : shown (exec .stop (bus 2 false true (lows 2) [])) = some (0x0012#16, true, false) := by
  decide +kernel
/-- V-S8: no slave. -/
theorem test_sendAddr_nack :
    shown (exec (.sendAddr 0x50#7 false) (bus 1 false false (highs 9) (highs 9))) = some (0x0082#16, false, true) := by
  decide +kernel
/-- V-S7: the trace of SEND_ADDR 0x50, R, its data pulses 1,0,1,0,0,0,0,1. -/
theorem test_sendAddr_pulses :
    (sdaReads (traceToIdle (offerWord 0x5017#16 (bus 1 false false (highs 9) (highs 8 ++ [false]))))).take 8
      = [true, false, true, false, false, false, false, true] := by decide +kernel
/-- V-S11. -/
theorem test_release : shown (exec .release (bus 1 true false [] [])) = some (0x0002#16, true, true) := by decide +kernel

/-! ## The port, errors and reset -/

/-- V-X4: BIT 0, RXDATA kept. -/
theorem test_illegal_keepsRxdata :
    (runIllegal 0x000F#16
      { bus 1 true true [] [] with
        status := { Status.reset with done := true, bit := true, rxdata := 0x5A#8 } }).status.word = 0x5A1A#16 := by decide +kernel
/-- V-X5: RECV_BIT offered after reset, then START before its first engine step: STATUS reads 0x0001, then 0x0005. -/
theorem test_overrun_status :
    replied (Host.Core.run Sys2Proof.core 4
      { bus 1 false true [true] [true] with
        status := Status.reset
        pending := [.write 0x0#2 2 0x0001#16, .read 0x1#2 2, .write 0x0#2 2 0x0005#16, .read 0x1#2 2] })
      = some [0x0005#16, 0x0001#16] := by decide +kernel
/-- V-X8: offset 3 reads as zero. -/
theorem test_read_offset3 : replied (hostRead 0x3#2 2 (bus 1 true true [] [])) = some [0x0000#16] := by decide
/-- After V-S13 a slave holds SCL low: LINES reads 0x000B. -/
theorem test_read_lines : replied (hostRead 0x2#2 2 (bus 1 true true [false] [true])) = some [0x000B#16] := by decide
/-- V-X7: reset in a slot with lines (0,0). -/
theorem test_reset_mid_command :
    shown (takeEvent (.rst true) { bus 1 false false [] [] with upc := .run (op .settle) [] }) = some (0x0000#16, true, true) := by
  decide
/-- D37: an access of 1 byte is refused. -/
theorem test_read_oddSize : hostRead 0x1#2 1 (bus 1 true true [] []) = .refused .accessSize := rfl
/-- R246: a STATUS read with a code that is never written faults. -/
theorem test_read_errCode4 :
    hostRead 0x1#2 2 { bus 1 true true [] [] with status := { Status.reset with err := 4#3 } } = .fault .errCodeNeverWritten := rfl
/-- V-S5's observation (R310): the lines, the two low samples, and STATUS after Finish. -/
theorem test_observation_stop :
    observationToIdle (offerWord 0x0006#16 (bus 2 false true (lows 2) []))
      = [.lines false false, .lines false false, .lines true false, .sclSample false, .lines true false, .sclSample false,
         .lines true false, .lines true false, .status 0x0012#16] := by decide +kernel
/-- Program P4: STATUS after each Finish, and the program has ended. -/
theorem test_programRun_P4 :
    let s := { bus 4 true true (lows 4) [true] with pending := [.command 0x0005#16, .command 0x5007#16, .command 0x0008#16] }
    ((ProgramRun.start s).run 3).map (fun r => (statusesSeen r.seen, r.ended [0x0005#16, 0x5007#16, 0x0008#16]))
      = some ([0x0002#16, 0x0012#16, 0x0002#16], true) := by decide +kernel
/-- R310: reset abandons a command without Finish, so a read of BUSY = 0 after it ends no program. -/
theorem test_programRun_reset :
    let s := { bus 4 true true [] [] with
      pending := [.write 0x0#2 2 0x0005#16, .rst true, .rst false, .read 0x1#2 2] }
    ((ProgramRun.start s).run 4).map (fun r => (r.machine.status.busy, r.ended [0x0005#16])) = some (false, false) := by
  decide +kernel

/-- R310: the Finish of the last command, then a reset, then a read of BUSY = 0 end the program. -/
theorem test_programRun_resetAfterFinish :
    let s := { bus 4 true true [] [] with
      pending := [.write 0x0#2 2 0x0000#16, .engine, .rst true, .rst false, .read 0x1#2 2] }
    ((ProgramRun.start s).run 5).map (fun r => (r.machine.status.done, r.ended [0x0000#16])) = some (false, true) := by
  decide +kernel
/-- V-X5 in the words of R310: START was discarded and had no Finish, so the program RECV_BIT, START has not ended. -/
theorem test_programRun_discarded :
    let s := { bus 1 false true [true] [true] with
      pending := .write 0x0#2 2 0x0001#16 :: .write 0x0#2 2 0x0005#16 :: (List.replicate 8 .engine ++ [.read 0x1#2 2]) }
    ((ProgramRun.start s).run 11).map (fun r => (r.ended [0x0001#16, 0x0005#16], r.ended [0x0001#16], r.machine.replies))
      = some (false, true, [0x0086#16]) := by decide +kernel

/-! ## Host procedures -/

/-- SLAVE_ID 0x50 and no sub-address. -/
def params : HostParams := { slaveId := 0x50#7, addrBytes := 0, subaddrOrder := .msbFirst }

/-- A Host that has issued nothing yet. -/
def host (s : State) : HostRun := { machine := s, issued := [] }

/-- V-H3. -/
theorem test_transfer_conflict :
    (transfer params [0x11#8, 0x22#8, 0x33#8] (fStart ||| fWrite ||| fStop) (host (bus 1 true true [] [false]))).ret = -1 := by
  decide +kernel
/-- V-H6. -/
theorem test_transfer_nackAborts :
    let r := transfer { params with nackAborts := true } [0x11#8, 0x22#8, 0x33#8] (fStart ||| fWrite ||| fStop)
      (host (bus 1 true true (highs 9) (highs 10)))
    r.ret = -4 ∧ r.run.issued = [0x0005#16, 0x5007#16] := by decide +kernel
/-- V-H11. -/
theorem test_transfer_empty :
    let r := transfer params [] (fStart ||| fWrite ||| fStop) (host (bus 1 true true (highs 10) (highs 9 ++ [false])))
    r.ret = 0 ∧ r.run.issued = [0x0005#16, 0x5007#16, 0x0006#16] := by decide +kernel
/-- V-H9 and V-H10. -/
theorem test_subaddr_orders :
    subaddr { params with addrBytes := 2 } 0x1234#32 = [0x12#8, 0x34#8]
    ∧ subaddr { params with addrBytes := 2, subaddrOrder := .lsbFirst } 0x1234#32 = [0x34#8, 0x12#8] := by decide
/-- V-Y11 and I12: with the parameter set the byte is copied out although the acknowledge slot timed out, after one read of LINES;
by default `out` is left alone (R213), and no read is made. -/
theorem test_recvByte_ackTimeoutOut :
    let h := host (bus 2 false false (highs 8 ++ lows 3) [false, true, false, true, true, false, true, false, true])
    let r := hostRecvByte { params with outOnAckTimeout := true } 0x11#8 h
    let d := hostRecvByte params 0x11#8 h
    (r.1, r.2.1, r.2.2.machine.sclIn, r.2.2.machine.sdaIn) = (-2, 0x5A#8, [], [])
    ∧ (d.1, d.2.1, d.2.2.machine.sclIn, d.2.2.machine.sdaIn) = (-2, 0x11#8, [false], [true]) := by decide +kernel
/-- I12 with a timeout in a data slot (V-Y10): nothing is copied out. -/
theorem test_recvByte_dataTimeoutOut :
    (hostRecvByte { params with outOnAckTimeout := true } 0x11#8
      (host (bus 2 false false (highs 4 ++ lows 3) (highs 5)))).2.1 = 0x11#8 := by decide +kernel
/-- Program P4, the last two commands: SEND_ADDR times out, RELEASE frees the lines and clears ERR. -/
theorem test_program_P4 :
    let h := hostProgram [0x5007#16] (host (bus 4 false false (lows 4) []))
    h.machine.status.word = 0x0012#16 ∧ (hostProgram [0x0008#16] h).machine.status.word = 0x0002#16 := by decide +kernel

/-! ## Witnesses: states and operands that meet the hypotheses of the statements -/

/-- SCL high at once (k = 1), with SDA low. -/
def atOnce : State := bus 2 false true [true] [false]
/-- SCL high on the last sample (k = N_POLL), with SDA high. -/
def atLast : State := bus 2 false true [false, true] [true]
/-- SCL never high. -/
def never : State := bus 2 false true [false, false] [true]

theorem ready_bus (n : Nat) (a b : Bit) (scl sda : List Bit) (h : 1 ≤ n) : Ready (bus n a b scl sda) := ⟨rfl, rfl, h⟩

theorem bus_inv (n : Nat) (a b : Bit) (scl sda : List Bit) (h : 1 ≤ n) : (bus n a b scl sda).Inv where
  busy_iff := by simp [bus, Status.reset, State.reset]
  not_busy_and_done := by simp [bus, Status.reset]
  err_le := by simp [bus, Status.reset]
  resErr_le := by simp [bus, State.reset]
  bit_without_error := by simp [bus, Status.reset]
  bitcnt_le := by simp [bus, State.reset]
  nPoll_pos := h
  pollcnt_le := by simp [bus, State.reset]
  position := trivial
  reset_held := by simp [bus, State.reset]

/-- Every statement whose hypotheses are `Ready` and the answer of `exec`: for every command, each of the three waits. -/
theorem witness_Ready_and_waits :
    (Ready atOnce ∧ waitSamples (sclAt atOnce) 0 atOnce.nPoll = some 1)
    ∧ (Ready atLast ∧ waitSamples (sclAt atLast) 0 atLast.nPoll = some 2)
    ∧ (Ready never ∧ waitSamples (sclAt never) 0 never.nPoll = none)
    ∧ ∀ i : Instr, ∃ t, exec i atOnce = .next t :=
  ⟨⟨ready_bus _ _ _ _ _ (by decide), rfl⟩, ⟨ready_bus _ _ _ _ _ (by decide), rfl⟩,
   ⟨ready_bus _ _ _ _ _ (by decide), rfl⟩, fun i => Laws.exec_answers_next i atOnce⟩

/-- The frames: all nine waits at once, the first wait late, the acknowledge slot's wait late. -/
theorem witness_nineWaits :
    nineWaits (bus 2 false true (highs 9) (highs 9)) = .all 9
    ∧ nineWaits (bus 1 false true [false] []) = .timeout 0 0
    ∧ nineWaits (bus 2 false true ([false, true] ++ highs 7 ++ lows 2) []) = .timeout 8 9 := by decide

/-- The statements whose only hypothesis is `Ready` split by the outcome of one wait: at once, on the last sample, never. -/
theorem witness_ready3 :
    (Ready atOnce ∧ waitSamples (sclAt atOnce) 0 atOnce.nPoll = some 1)
    ∧ (Ready atLast ∧ waitSamples (sclAt atLast) 0 atLast.nPoll = some 2)
    ∧ (Ready never ∧ waitSamples (sclAt never) 0 never.nPoll = none) :=
  ⟨witness_Ready_and_waits.1, witness_Ready_and_waits.2.1, witness_Ready_and_waits.2.2.1⟩

theorem witness_RecvBitSamplesSda : Ready atOnce ∧ Ready atLast ∧ Ready never :=
  ⟨witness_ready3.1.1, witness_ready3.2.1.1, witness_ready3.2.2.1⟩
theorem witness_SendBitDrivesSda : Ready atOnce ∧ Ready atLast ∧ Ready never := witness_RecvBitSamplesSda
theorem witness_AliasesRunTheirExpansions : Ready atOnce ∧ Ready atLast ∧ Ready never := witness_RecvBitSamplesSda
theorem witness_StopReleasesBothLines : Ready atOnce ∧ Ready atLast ∧ Ready never := witness_RecvBitSamplesSda
theorem witness_StopConditionOnTheWire :
    Ready atOnce ∧ waitSamples (sclAt atOnce) 0 atOnce.nPoll = some 1
    ∧ Ready atLast ∧ waitSamples (sclAt atLast) 0 atLast.nPoll = some 2 :=
  ⟨witness_ready3.1.1, witness_ready3.1.2, witness_ready3.2.1.1, witness_ready3.2.1.2⟩

/-- The frames: all nine waits at once, the first wait never, the acknowledge slot's wait never (`witness_nineWaits`). -/
theorem witness_SendByteSendsAFrame :
    Ready (bus 2 false true (highs 9) (highs 9)) ∧ Ready (bus 1 false true [false] [])
    ∧ Ready (bus 2 false true ([false, true] ++ highs 7 ++ lows 2) []) :=
  ⟨ready_bus _ _ _ _ _ (by decide), ready_bus _ _ _ _ _ (by decide), ready_bus _ _ _ _ _ (by decide)⟩
theorem witness_RecvByteAssemblesAByte :
    Ready (bus 2 false true (highs 9) (highs 9)) ∧ Ready (bus 1 false true [false] [])
    ∧ Ready (bus 2 false true ([false, true] ++ highs 7 ++ lows 2) []) := witness_SendByteSendsAFrame
theorem witness_SendAddrSendsItsFrame :
    Ready (bus 2 false true (highs 9) (highs 9)) ∧ Ready (bus 1 false true [false] [])
    ∧ Ready (bus 2 false true ([false, true] ++ highs 7 ++ lows 2) []) := witness_SendByteSendsAFrame
theorem witness_FrameOfFrameCommands :
    Ready (bus 2 false true (highs 9) (highs 9))
    ∧ (∃ t, exec (.sendByte 0xFF#8) (bus 2 false true (highs 9) (highs 9)) = .next t)
    ∧ (∃ t, exec (.sendAddr 0x7F#7 true) (bus 2 false true (highs 9) (highs 9)) = .next t)
    ∧ ∃ t, exec .recvByte (bus 2 false true (highs 9) (highs 9)) = .next t :=
  ⟨witness_SendByteSendsAFrame.1, Laws.exec_answers_next _ _, Laws.exec_answers_next _ _, Laws.exec_answers_next _ _⟩
theorem witness_EveryCommandFinishes : Ready atOnce ∧ Ready never := ⟨witness_ready3.1.1, witness_ready3.2.2.1⟩
/-- Each clause at a value of its range: k = 1, k = N_POLL, an illegal word, all nine waits. -/
theorem witness_EngineStepsPerCommand :
    Ready atOnce ∧ waitSamples (sclAt atOnce) 0 atOnce.nPoll = some 1
    ∧ waitSamples (sclAt atLast) 0 atLast.nPoll = some 2 ∧ isLegal 0x0009#16 = false
    ∧ nineWaits (bus 2 false true (highs 9) (highs 9)) = .all 9 :=
  ⟨witness_ready3.1.1, witness_ready3.1.2, witness_ready3.2.1.2, by decide, witness_nineWaits.1⟩

theorem witness_DecodeEncodeRoundTrip : (Instr.sendAddr 0x7F#7 true).wellFormed = true := rfl

theorem witness_EncodeIsTheOnlyWord : decode 0x7F17#16 = .command (.sendAddr 0x7F#7 true) := by decide

theorem witness_DecodeFollowsTheOpcodeTable :
    (⟨0x0007#16, 0x80EF#16⟩ : OpcodeRow) ∈ opcodeTable ∧ OpcodeRow.selects ⟨0x0007#16, 0x80EF#16⟩ 0x7F17#16 = true
    ∧ isLegal 0x8007#16 = false := by decide

theorem witness_StepRunsTheDecodedCommand :
    ∃ s : State, s.pending = .command 0x0005#16 :: [] ∧ decode 0x0005#16 = .command .start :=
  ⟨{ atOnce with pending := [.command 0x0005#16] }, rfl, by decide⟩

theorem witness_FetchedWordRunsNext :
    decodeTableWord 16 0xFF03 = some (.sendByte 0xFF#8) ∧ decodeTableWord 16 0x0001 = some .recvBit := by decide

/-- One state for each token. -/
theorem witness_EngineStepDoesOnePrimitive :
    nextToken State.reset = none
    ∧ nextToken { atOnce with upc := .run (op (.setScl true)) [] } = some (.c true)
    ∧ nextToken { atOnce with upc := .run (op (.setSda (.const false))) [] } = some (.d false)
    ∧ nextToken { atOnce with upc := .run (op .settle) [] } = some .s
    ∧ nextToken { atOnce with upc := .run waitSclHigh [], sclOut := true } = some (.p true)
    ∧ nextToken { atOnce with upc := .run (op .readSda) [] } = some (.r false)
    ∧ nextToken { atOnce with upc := .fin } = some .f := ⟨rfl, rfl, rfl, rfl, rfl, rfl, rfl⟩

theorem witness_AcceptanceLatchesOrSetsOverrun :
    atOnce.rst = false ∧ atOnce.status.busy = false ∧ decode 0x0008#16 = .command .release
    ∧ decode 0x0009#16 = .illegal .reservedOp
    ∧ (∃ s : State, s.rst = false ∧ s.status.busy = true) :=
  ⟨rfl, rfl, by decide, by decide, ⟨offerWord 0x0001#16 atOnce, by decide +kernel, by decide +kernel⟩⟩

theorem witness_FinishWritesStatus : ∃ s : State, s.rst = false ∧ s.upc = .fin := ⟨{ atOnce with upc := .fin }, rfl, rfl⟩

/-- SCL high on the first sample, on the last, and never. -/
theorem witness_ClockStretchWaitIsBounded :
    ∀ s ∈ [atOnce, atLast, never], s.rst = false ∧ 1 ≤ s.nPoll
      ∧ ({ s with sclOut := true, upc := .run waitSclHigh [op .readSda] } : State).upc = .run waitSclHigh [op .readSda] := by
  decide

/-- A busy engine, at the first step of START, that meets the invariant. -/
theorem witness_OverrunLeavesTheCommandUnaffected : ∃ s : State, s.rst = false ∧ s.status.busy = true ∧ s.upc = Upc.ofList startList ∧ s.Inv := by
  refine ⟨offerWord 0x0005#16 atOnce, by decide +kernel, by decide +kernel, by decide +kernel, ?_⟩
  have hp : (offerWord 0x0005#16 atOnce).upc = Upc.ofList startList := by decide +kernel
  exact
    { busy_iff := by decide +kernel
      not_busy_and_done := by decide +kernel
      err_le := by decide +kernel
      resErr_le := by decide +kernel
      bit_without_error := by decide +kernel
      bitcnt_le := by decide +kernel
      nPoll_pos := by decide +kernel
      pollcnt_le := by decide +kernel
      position := by
        unfold LegalPosition
        rw [hp]
        exact ⟨[], _, by decide +kernel, .inl rfl, by decide +kernel, by decide +kernel⟩
      reset_held := by decide +kernel }

/-- A busy engine and each kind of move that is no reset. -/
theorem witness_CommandInProgressKeepsItsWord :
    ∃ s : State, s.status.busy = true ∧ (∃ t, takeEvent (.write 0x0#2 2 0x0006#16) s = .next t)
      ∧ (∃ t, takeEvent .engine s = .next t) ∧ (∃ t, takeEvent (.command 0x0006#16) s = .next t)
      ∧ ∃ t, takeEvent (.read 0x2#2 2) s = .next t :=
  ⟨offerWord 0x0005#16 atOnce, by decide +kernel, ⟨_, rfl⟩, ⟨_, rfl⟩, ⟨_, rfl⟩, ⟨_, rfl⟩⟩

/-- An engine step that changes SCL_OUT, one that changes SDA_OUT, and a reset that changes both. -/
theorem witness_OnlyEngineAndResetWriteLines :
    (∃ s t : State, takeEvent .engine s = .next t ∧ t.sclOut ≠ s.sclOut)
    ∧ (∃ s t : State, takeEvent .engine s = .next t ∧ t.sdaOut ≠ s.sdaOut)
    ∧ (∃ s t : State, takeEvent (.rst true) s = .next t ∧ t.sclOut ≠ s.sclOut ∧ t.sdaOut ≠ s.sdaOut) :=
  ⟨⟨{ atOnce with upc := .run (op (.setScl true)) [] }, _, rfl, by decide⟩,
   ⟨{ atOnce with upc := .run (op (.setSda (.const false))) [] }, _, rfl, by decide⟩,
   ⟨bus 1 false false [] [], _, rfl, by decide, by decide⟩⟩

theorem witness_EmptyAgendaLeavesTheMoveToTheEngine : State.reset.pending = [] ∧ State.reset.upc = .idle := ⟨rfl, rfl⟩

theorem witness_FrameOfBitCommands :
    Ready atLast ∧ ∀ i ∈ [Instr.recvBit, .recvAck, .sendBit true, .sendAck, .sendNack], ∃ t, exec i atLast = .next t :=
  ⟨ready_bus _ _ _ _ _ (by decide), fun i _ => Laws.exec_answers_next i atLast⟩

/-- A peer that never stretches and acknowledges. -/
def acking : State := bus 2 false true (highs 9) (highs 8 ++ [false])

theorem witness_ByteIsEightBitsThenAcknowledge :
    Ready acking ∧ (∀ k, k < 9 → sclAt acking k = true) ∧ sdaAt acking 8 = false :=
  ⟨ready_bus _ _ _ _ _ (by decide), by decide, rfl⟩

/-- A sender of 0xA5, and a receiver whose SDA carries what the sender puts on the wire. -/
theorem witness_SentByteIsReceived :
    let sender := acking
    let receiver := bus 2 false true (false :: highs 9) [true, false, true, false, false, true, false, true]
    Ready sender ∧ Ready receiver ∧ (∃ n, nineWaits sender = .all n) ∧ (∃ n, nineWaits receiver = .all n)
    ∧ (∀ j, j < 8 → sdaAt sender j = true)
    ∧ (∀ j, j < 8 → (sdaReads (traceToIdle (offerWord (encode (.sendByte 0xA5#8)) sender)))[j]? = some (sdaAt receiver j)) :=
  ⟨ready_bus _ _ _ _ _ (by decide), ready_bus _ _ _ _ _ (by decide), ⟨9, by decide⟩, ⟨10, by decide⟩, by decide,
   by decide +kernel⟩

/-- Both outcomes of START's look at SDA. -/
theorem witness_StartChecksSda :
    Ready atLast ∧ (atLast.sdaOut && sdaAt atLast 0) = true ∧ Ready atOnce ∧ (atOnce.sdaOut && sdaAt atOnce 0) = false :=
  ⟨ready_bus _ _ _ _ _ (by decide), rfl, ready_bus _ _ _ _ _ (by decide), rfl⟩

/-- SCL released and low, with SDA high; `atLast` is the same with SCL driven low. -/
theorem witness_StartConditionNeedsSclHigh :
    let s := bus 2 true true [] [true]
    Ready s ∧ (s.sdaOut && sdaAt s 0) = true ∧ (s.sclOut && false) = false ∧ (s.sclOut && true) = true :=
  ⟨ready_bus _ _ _ _ _ (by decide), rfl, rfl, rfl⟩

theorem witness_FrameOfBusConditions :
    Ready atLast ∧ ∀ i ∈ [Instr.start, .stop, .release], ∃ t, exec i atLast = .next t :=
  ⟨ready_bus _ _ _ _ _ (by decide), fun i _ => Laws.exec_answers_next i atLast⟩

theorem witness_ReleaseReleasesBothLines :
    let s := bus 1 false false [] []
    Ready s ∧ s.sclOut = false ∧ s.sdaOut = false := ⟨ready_bus _ _ _ _ _ (by decide), rfl, rfl⟩

theorem witness_IllegalWordFinishesWithError3 :
    ∃ s : State, Ready s ∧ isLegal 0x8007#16 = false ∧ s.pending = .command 0x8007#16 :: [] :=
  ⟨{ atOnce with pending := [.command 0x8007#16] }, ⟨rfl, rfl, by decide⟩, by decide, rfl⟩

/-- A timeout of each command that waits. -/
theorem witness_TimeoutLeavesSclReleased :
    Ready never ∧ ∀ i ∈ [Instr.recvBit, .recvAck, .sendBit true, .sendAck, .sendNack, .sendByte 0xFF#8, .recvByte, .stop,
        .sendAddr 0x00#7 false], (runCommand (encode i) (some (stepListOf i)) never).status.err = 2#3 :=
  ⟨ready_bus _ _ _ _ _ (by decide), by decide +kernel⟩

/-- What each command can raise: a conflict, an arbitration loss. -/
theorem witness_ErrorsEachCommandCanRaise :
    (runCommand 0x0005#16 (some startList) atOnce).status.err = 1#3
    ∧ (runCommand 0x0102#16 (some sendBitList) atOnce).status.arbLost = true := by decide +kernel

theorem witness_ReferenceReturnValue :
    (0x2#3 : BitVec 3) ≠ 0#3 ∧ Status.reset.err = 0#3 := by decide

theorem witness_PortReadsShowTheRegisters :
    atOnce.status.err ≤ 3#3 ∧ ({ atOnce with status := { Status.reset with err := 3#3 } } : State).status.err ≤ 3#3 := by decide

theorem witness_PortAccessSideEffects :
    (∃ t, hostRead 0x2#2 2 atOnce = .next t) ∧ (∃ t u, hostRead 0x1#2 2 atOnce = .next t ∧ hostRead 0x1#2 2 t = .next u)
    ∧ (0x3#2 : BitVec 2) ≠ 0x0#2 := ⟨⟨_, rfl⟩, ⟨_, _, rfl, rfl⟩, by decide⟩

theorem witness_OnlyOddSizedAccessesAreRefused :
    ∃ s : State, step s = .refused .accessSize ∧ s.pending = .read 0x0#2 1 :: [] :=
  ⟨{ atOnce with pending := [.read 0x0#2 1] }, rfl, rfl⟩

/-- A held reset, and a busy engine that a reset and a Finish end. -/
theorem witness_ResetAbandonsAndHolds :
    (∃ s t : State, resetRegisters s = s ∧ s.rst = true ∧ takeEvent (.rst false) s = .next t)
    ∧ (∃ t, takeEvent (.rst true) (offerWord 0x0005#16 atOnce) = .next t ∧ t.status.busy = false)
    ∧ (∃ t, takeEvent (.command 0x0001#16) (offerWord 0x0005#16 atOnce) = .next t ∧ t.status.busy = false) :=
  ⟨⟨setRst true atOnce, _, rfl, rfl, rfl⟩, ⟨_, rfl, rfl⟩, ⟨_, rfl, by decide +kernel⟩⟩

/-- A held state meets the invariant. -/
theorem witness_held_inv : ∃ s : State, s.Inv ∧ s.rst = true :=
  ⟨setRst true atOnce,
    { busy_iff := by decide
      not_busy_and_done := by decide
      err_le := by decide
      resErr_le := by decide
      bit_without_error := by decide
      bitcnt_le := by decide
      nPoll_pos := by decide
      pollcnt_le := by decide
      position := trivial
      reset_held := fun _ => rfl }, rfl⟩

theorem witness_StepKeepsTheInvariant : ∃ s t : State, s.Inv ∧ step s = .next t :=
  ⟨{ atOnce with pending := [] }, _, bus_inv 2 false true [true] [false] (by decide), rfl⟩

theorem witness_ErrorCodesAbove3NeverAppear : ∃ s : State, s.Inv ∧ ∃ t, step s = .next t :=
  ⟨atOnce, bus_inv 2 false true [true] [false] (by decide), _, rfl⟩

theorem witness_ExecIsItsAtomicSteps :
    (Ready atOnce ∧ atOnce.pending = [] ∧ 54 + 9 * atOnce.nPoll ≤ 72 ∧ ∃ t, exec .recvByte atOnce = .next t)
    ∧ ∃ s : State, s.rst = false ∧ s.status.busy = true :=
  ⟨⟨ready_bus _ _ _ _ _ (by decide), rfl, by decide, _, rfl⟩,
   ⟨offerWord 0x0005#16 atOnce, by decide +kernel, by decide +kernel⟩⟩

/-- A start with SDA free, a stop in a transaction, a release, and a data bit: issued as the rules ask. -/
theorem witness_DataChangesOnlyWhileSclLow :
    mayIssue .start (bus 1 true true [true] [true]) = true ∧ mayIssue .stop atOnce = true ∧ mayIssue .release atOnce = true
    ∧ nextToken (engineRun 0 (offerWord (encode (.sendBit true)) atOnce)) = some (.d true)
    ∧ nextToken (engineRun 5 (offerWord (encode .stop) atOnce)) = some (.d true) := by decide +kernel

theorem witness_HostExecRunsTheCommand : decode 0x3C03#16 = .command (.sendByte 0x3C#8) := by decide

/-- An idle bus with samples enough for two bytes. -/
def idleBus : State := bus 1 true true (highs 28) (highs 18)

theorem witness_WriteTransferIssuesItsCommands :
    params.nackAborts = false ∧ Ready idleBus ∧ (∀ k, k < 10 + 9 * [0x11#8, 0x22#8].length → sclAt idleBus k = true)
    ∧ (∀ k, k < 10 + 9 * ([] : List Byte).length → sclAt idleBus k = true) ∧ (idleBus.sdaOut && sdaAt idleBus 0) = true :=
  ⟨rfl, ready_bus _ _ _ _ _ (by decide), by decide, by decide, rfl⟩

theorem witness_ReadTransferFillsTheBuffer :
    params.nackAborts = false ∧ Ready idleBus ∧ (∀ k, k < 10 + 9 * [0x00#8, 0x00#8].length → sclAt idleBus k = true)
    ∧ (idleBus.sdaOut && sdaAt idleBus 0) = true
    ∧ (transfer params [0x00#8] (fStart ||| fRead ||| fStop) (host idleBus)).buf[0]? = some 0xFF#8 :=
  ⟨rfl, ready_bus _ _ _ _ _ (by decide), by decide, rfl, by decide +kernel⟩

theorem witness_TransferReturnsNoPartialCount : (host idleBus).machine.Inv := bus_inv 1 true true _ _ (by decide)

theorem witness_SubaddressBytes :
    (3 : Nat) < ({ params with addrBytes := 4 } : HostParams).addrBytes.val ∧ params.subaddrOrder = .msbFirst
    ∧ ({ params with subaddrOrder := .lsbFirst } : HostParams).subaddrOrder = .lsbFirst := by decide

/-- Both modes of `addr_read`, with one sub-address byte and one data byte. -/
theorem witness_AddressedTransfersIssueTheirCommands :
    ∀ p ∈ [{ params with addrBytes := 1 }, { params with addrBytes := 1, addrReadMode := .reference }],
      p.nackAborts = false ∧ Ready (host idleBus).machine
      ∧ (∀ k, k < 10 + 9 * (p.addrBytes.val + [0x77#8].length) → sclAt (host idleBus).machine k = true)
      ∧ ((host idleBus).machine.sdaOut && sdaAt (host idleBus).machine 0) = true := by
  intro p hp
  refine ⟨?_, ready_bus _ _ _ _ _ (by decide), ?_, rfl⟩
  · revert p; decide
  · revert p; decide

theorem witness_ByteReadWithNack :
    Ready (host acking).machine ∧ ∀ k, k < 9 → sclAt (host acking).machine k = true :=
  ⟨ready_bus _ _ _ _ _ (by decide), by decide⟩

/-- Two instances on one bus: the first has started a transaction, the second is idle. -/
def twoOnOneBus : System := [{ bus := 7, state := bus 2 false false [] [] }, { bus := 7, state := bus 2 true true [true] [true] }]

theorem witness_InstancesShareNoState :
    (∃ after, System.stepInstance twoOnOneBus 1 = some (.next after)) ∧ System.reset[0]? = some (Instance.reset 0) :=
  ⟨⟨_, rfl⟩, by simp [System.reset, Config.nInst]⟩

/-- R262 and V-S2: the second instance's START sees the first one's SDA. -/
theorem test_start_otherInstance :
    shown (exec .start (System.facing twoOnOneBus 1 { bus := 7, state := bus 2 true true [true] [true] }))
      = some (0x000A#16, true, true) := by decide +kernel

theorem witness_InstancesOnOneBusSeeEachOther :
    (∃ other i, twoOnOneBus[0]? = some other ∧ twoOnOneBus[1]? = some i ∧ other.bus = i.bus ∧ other.state.sclOut = false
      ∧ other.state.sdaOut = false ∧ Ready i.state)
    ∧ (∃ i : Instance, [i][0]? = some i ∧ ∀ j other, j ≠ 0 → [i][j]? = some other → other.bus ≠ i.bus) :=
  ⟨⟨_, _, rfl, rfl, rfl, rfl, rfl, ready_bus _ _ _ _ _ (by decide)⟩,
   ⟨{ bus := 7, state := atOnce }, rfl, fun j other hj h => by
      cases j with
      | zero => exact absurd rfl hj
      | succ j => simp at h⟩⟩

/-- The invariant does not look at the agenda. -/
theorem atOnce_inv (pending : List Event) : ({ atOnce with pending := pending } : State).Inv := by
  have h := bus_inv 2 false true [true] [false] (by decide)
  exact ⟨h.busy_iff, h.not_busy_and_done, h.err_le, h.resErr_le, h.bit_without_error, h.bitcnt_le, h.nPoll_pos, h.pollcnt_le,
    trivial, by simp [atOnce, bus, State.reset]⟩

theorem atOnce_ready (pending : List Event) : Ready { atOnce with pending := pending } := ⟨rfl, rfl, Nat.le_succ 1⟩

/-- A program offered command by command, and the three agendas in atomic steps, with the read after (m = 1) and before (m = 0) the
Finish of an illegal word. -/
theorem witness_ProgramEndsWithTheReadAfterItsLastFinish :
    (∃ s : State, Ready s ∧ s.pending = [0x0005#16, 0x0006#16].map Event.command)
    ∧ (∀ m, ∃ s : State, s.Inv ∧ Ready s
        ∧ s.pending = .write 0x0#2 2 0x0000#16 :: (List.replicate m .engine ++ [.read 0x1#2 2]))
    ∧ (∀ m, ∃ s : State, s.Inv ∧ Ready s
        ∧ s.pending = .write 0x0#2 2 0x0000#16 :: (List.replicate m .engine ++ [.rst true, .read 0x1#2 2]))
    ∧ (∀ m, ∃ s : State, s.Inv ∧ Ready s
        ∧ s.pending = .write 0x0#2 2 0x0000#16 :: .write 0x0#2 2 0x0005#16 :: (List.replicate m .engine ++ [.read 0x1#2 2]))
    ∧ stepsToIdle (offerWord 0x0000#16 atOnce) = 1
    ∧ (∃ (s : State) (r : ProgramRun), s.Inv ∧ (ProgramRun.start s).run 1 = some r ∧ r.ended [0x0000#16] = true) :=
  ⟨⟨_, atOnce_ready [.command 0x0005#16, .command 0x0006#16], rfl⟩, fun _ => ⟨_, atOnce_inv _, atOnce_ready _, rfl⟩,
   fun _ => ⟨_, atOnce_inv _, atOnce_ready _, rfl⟩, fun _ => ⟨_, atOnce_inv _, atOnce_ready _, rfl⟩, by decide,
   ⟨_, _, atOnce_inv [.command 0x0000#16], rfl, by decide +kernel⟩⟩

end Sys2Proof.Tests
end

section
/-! SUPPORT and the settled statements of 10_state.md. First the rules about single operations (offers, reads, work, entries of
step lists), then the invariant, then the bound on engine steps, then the obligations. -/

namespace Sys2Proof.Proofs

open Sys2Proof.Machine Sys2Proof.Laws

/-! ## Offers and acceptance (R46) -/

theorem selectedBy_command {w : Word} {i : Instr} (h : decode w = .command i) : selectedBy w = some (stepListOf i) := by
  simp [selectedBy, h]

theorem selectedBy_illegal {w : Word} {why : IllegalWord} (h : decode w = .illegal why) : selectedBy w = none := by
  simp [selectedBy, h]

/-- The word of a command decodes to what the command stands for. -/
theorem decode_encode (i : Instr) : decode (encode i) = .command i.expand := by
  cases i with
  | sendBit b => revert b; decide
  | sendByte d => revert d; decide
  | sendAddr id r => revert id r; decide
  | recvBit | recvByte | start | stop | release | recvAck | sendAck | sendNack => decide

theorem stepListOf_expand (i : Instr) : stepListOf i.expand = stepListOf i := by
  cases i <;> rfl

/-- Decode selects for a command's word the step list the command runs. -/
theorem selectedBy_encode (i : Instr) : selectedBy (encode i) = some (stepListOf i) := by
  rw [selectedBy_command (decode_encode i), stepListOf_expand]

theorem hostWrite_cmd (v : Word) (s : State) : hostWrite 0x0#2 2 v s = .next (offerWord v s) := rfl

theorem offerWord_ready {s : State} (w : Word) (hr : s.rst = false) (hb : s.status.busy = false) :
    offerWord w s = accept w (selectedBy w) s := by
  simp [offerWord, offer, hr, hb]

theorem offer_busy {s : State} (w : Word) (sel : Option StepList) (hr : s.rst = false) (hb : s.status.busy = true) :
    offer w sel s = discard s := by
  simp [offer, hr, hb]

section Accept
variable (w : Word) (sel : Option StepList) (s : State)

@[simp] theorem accept_sclOut : (accept w sel s).sclOut = s.sclOut := by cases sel <;> rfl
@[simp] theorem accept_sdaOut : (accept w sel s).sdaOut = s.sdaOut := by cases sel <;> rfl
@[simp] theorem accept_cur : (accept w sel s).cur = w := by cases sel <;> rfl
@[simp] theorem accept_shift : (accept w sel s).shift = s.shift := by cases sel <;> rfl
@[simp] theorem accept_bitcnt : (accept w sel s).bitcnt = 0#4 := by cases sel <;> rfl
@[simp] theorem accept_pollcnt : (accept w sel s).pollcnt = 0 := by cases sel <;> rfl
@[simp] theorem accept_resBit : (accept w sel s).resBit = false := by cases sel <;> rfl
@[simp] theorem accept_arbAcc : (accept w sel s).arbAcc = false := by cases sel <;> rfl
@[simp] theorem accept_rxValid : (accept w sel s).rxValid = false := by cases sel <;> rfl
@[simp] theorem accept_smp : (accept w sel s).smp = s.smp := by cases sel <;> rfl
@[simp] theorem accept_status : (accept w sel s).status = s.status.accepted := by cases sel <;> rfl
@[simp] theorem accept_rst : (accept w sel s).rst = s.rst := by cases sel <;> rfl
@[simp] theorem accept_nPoll : (accept w sel s).nPoll = s.nPoll := by cases sel <;> rfl
@[simp] theorem accept_sclPeers : (accept w sel s).sclPeers = s.sclPeers := by cases sel <;> rfl
@[simp] theorem accept_sdaPeers : (accept w sel s).sdaPeers = s.sdaPeers := by cases sel <;> rfl
@[simp] theorem accept_sclIn : (accept w sel s).sclIn = s.sclIn := by cases sel <;> rfl
@[simp] theorem accept_sdaIn : (accept w sel s).sdaIn = s.sdaIn := by cases sel <;> rfl
@[simp] theorem accept_freeStream : (accept w sel s).freeStream = s.freeStream := by cases sel <;> rfl
@[simp] theorem accept_freeSclUsed : (accept w sel s).freeSclUsed = s.freeSclUsed := by cases sel <;> rfl
@[simp] theorem accept_freeSdaUsed : (accept w sel s).freeSdaUsed = s.freeSdaUsed := by cases sel <;> rfl
@[simp] theorem accept_pending : (accept w sel s).pending = s.pending := by cases sel <;> rfl
@[simp] theorem accept_replies : (accept w sel s).replies = s.replies := by cases sel <;> rfl

end Accept

@[simp] theorem accept_some_upc (w : Word) (l : StepList) (s : State) : (accept w (some l) s).upc = Upc.ofList l := rfl
@[simp] theorem accept_some_resErr (w : Word) (l : StepList) (s : State) : (accept w (some l) s).resErr = 0#3 := rfl
@[simp] theorem accept_none_upc (w : Word) (s : State) : (accept w none s).upc = .fin := rfl
@[simp] theorem accept_none_resErr (w : Word) (s : State) : (accept w none s).resErr = 3#3 := rfl

/-! ## Work -/

/-- Work that neither raises an error nor counts a data bit: all that stands before a primitive. -/
def prepares : Work → Bool
  | .checkIdle | .nextBit => false
  | .loadData | .loadAddr | .startWait | .checkArb _ | .returnBit | .shiftIn | .markReceived => true

theorem work_resErr_bitcnt_of_prepares {w : Work} (h : prepares w = true) (s : State) :
    (w.apply s).resErr = s.resErr ∧ (w.apply s).bitcnt = s.bitcnt := by
  cases w with
  | checkIdle | nextBit => cases h
  | checkArb v => simp only [Work.apply]; split <;> exact ⟨rfl, rfl⟩
  | loadData | loadAddr | startWait | returnBit | shiftIn | markReceived => exact ⟨rfl, rfl⟩

theorem doWork_resErr_bitcnt_of_prepares {ws : List Work} (h : ws.all prepares = true) (s : State) :
    (doWork ws s).resErr = s.resErr ∧ (doWork ws s).bitcnt = s.bitcnt := by
  induction ws generalizing s with
  | nil => exact ⟨rfl, rfl⟩
  | cons w ws ih =>
    obtain ⟨hw, hws⟩ : prepares w = true ∧ ws.all prepares = true := by simpa using h
    obtain ⟨he, hb⟩ := work_resErr_bitcnt_of_prepares hw s
    obtain ⟨he', hb'⟩ := ih hws (w.apply s)
    exact ⟨he'.trans he, hb'.trans hb⟩

/-- Work leaves the position and RES_ERR alone, but for the one `raise` among it, which goes to FIN (R181). -/
theorem work_upc_cases (w : Work) (s : State) :
    ((w.apply s).upc = s.upc ∧ (w.apply s).resErr = s.resErr) ∨ ((w.apply s).upc = .fin ∧ (w.apply s).resErr = 1#3) := by
  cases w with
  | checkIdle =>
    cases h : s.smp with
    | true => exact .inl (by simp [Work.apply, h])
    | false => exact .inr (by simp [Work.apply, h, ErrCode.code])
  | checkArb v => simp only [Work.apply]; split <;> exact .inl ⟨rfl, rfl⟩
  | loadData | loadAddr | startWait | returnBit | shiftIn | nextBit | markReceived => exact .inl ⟨rfl, rfl⟩

theorem doWork_upc_cases (ws : List Work) (s : State) :
    ((doWork ws s).upc = s.upc ∧ (doWork ws s).resErr = s.resErr)
      ∨ ((doWork ws s).upc = .fin ∧ (doWork ws s).resErr = 1#3) := by
  induction ws generalizing s with
  | nil => exact .inl ⟨rfl, rfl⟩
  | cons w ws ih =>
    rcases ih (w.apply s) with ⟨hu, he⟩ | hraised
    · rcases work_upc_cases w s with ⟨hu', he'⟩ | ⟨hu', he'⟩
      · exact .inl ⟨hu.trans hu', he.trans he'⟩
      · exact .inr ⟨hu.trans hu', he.trans he'⟩
    · exact .inr hraised

/-- Work counts in BITCNT the data bits it ends (R40). -/
theorem doWork_bitcnt (ws : List Work) (s : State) :
    (doWork ws s).bitcnt = s.bitcnt + BitVec.ofNat 4 (ws.count .nextBit) := by
  induction ws generalizing s with
  | nil => simp
  | cons w ws ih =>
    rw [doWork_cons, ih]
    by_cases hw : w = .nextBit
    · subst hw
      rw [List.count_cons_self, BitVec.ofNat_add, BitVec.add_comm (BitVec.ofNat 4 _), ← BitVec.add_assoc]
      rfl
    · have hb : (w.apply s).bitcnt = s.bitcnt := by
        cases w with
        | nextBit => exact absurd rfl hw
        | checkIdle | checkArb => simp only [Work.apply]; split <;> rfl
        | loadData | loadAddr | startWait | returnBit | shiftIn | markReceived => rfl
      rw [hb, List.count_cons_of_ne hw]

/-- Work never raises POLLCNT: it can only begin a wait. -/
theorem doWork_pollcnt_le (ws : List Work) (s : State) : (doWork ws s).pollcnt ≤ s.pollcnt := by
  induction ws generalizing s with
  | nil => exact le_rfl
  | cons w ws ih =>
    refine (ih (w.apply s)).trans ?_
    cases w with
    | startWait => exact Nat.zero_le _
    | checkIdle | checkArb => simp only [Work.apply]; split <;> exact le_rfl
    | loadData | loadAddr | returnBit | shiftIn | nextBit | markReceived => exact le_rfl

/-! ## Entries of a step list -/

/-- An engine step at an entry, up to its primitive: the work before it is done, and the position has moved on. -/
def atPrimitive (st : MicroStep) (rest : StepList) (s : State) : State := setUpc (Upc.ofList rest) (doWork st.before s)

section Entry
variable {st : MicroStep} (rest : StepList) (s : State)

@[simp] theorem atPrimitive_sclOut : (atPrimitive st rest s).sclOut = s.sclOut := by simp [atPrimitive]
@[simp] theorem atPrimitive_sdaOut : (atPrimitive st rest s).sdaOut = s.sdaOut := by simp [atPrimitive]
@[simp] theorem atPrimitive_cur : (atPrimitive st rest s).cur = s.cur := by simp [atPrimitive]
@[simp] theorem atPrimitive_status : (atPrimitive st rest s).status = s.status := by simp [atPrimitive]
@[simp] theorem atPrimitive_nPoll : (atPrimitive st rest s).nPoll = s.nPoll := by simp [atPrimitive]
@[simp] theorem atPrimitive_upc : (atPrimitive st rest s).upc = Upc.ofList rest := rfl
@[simp] theorem atPrimitive_resErr : (atPrimitive st rest s).resErr = (doWork st.before s).resErr := rfl
@[simp] theorem atPrimitive_bitcnt : (atPrimitive st rest s).bitcnt = (doWork st.before s).bitcnt := rfl
@[simp] theorem atPrimitive_pollcnt : (atPrimitive st rest s).pollcnt = (doWork st.before s).pollcnt := rfl

theorem microStep_setScl {v : Bit} (h : st.prim = .setScl v) :
    microStep st rest s = doWork st.after (setScl v (atPrimitive st rest s)) := by
  simp [microStep, atPrimitive, h]

theorem microStep_setSda {v : BitSrc} (h : st.prim = .setSda v) :
    microStep st rest s = doWork st.after (setSda (v.value (atPrimitive st rest s)) (atPrimitive st rest s)) := by
  simp [microStep, atPrimitive, h]

theorem microStep_settle (h : st.prim = .settle) : microStep st rest s = doWork st.after (atPrimitive st rest s) := by
  simp [microStep, atPrimitive, h]

theorem microStep_readSda (h : st.prim = .readSda) :
    microStep st rest s = doWork st.after (readSda (atPrimitive st rest s)) := by
  simp [microStep, atPrimitive, h]

theorem microStep_pollScl (h : st.prim = .pollScl) : microStep st rest s = pollScl st rest (atPrimitive st rest s) := by
  simp [microStep, atPrimitive, h]

end Entry

/-- What a primitive leaves alone of the registers that say where a command stands; a PollSCL counts its sample in POLLCNT. -/
structure KeepsPlace (p : Prim) (u v : State) : Prop where
  cur : v.cur = u.cur
  upc : v.upc = u.upc
  resErr : v.resErr = u.resErr
  bitcnt : v.bitcnt = u.bitcnt
  nPoll : v.nPoll = u.nPoll
  status : v.status = u.status
  pollcnt : v.pollcnt = u.pollcnt ∨ (p = .pollScl ∧ v.pollcnt = u.pollcnt + 1)

/-- What an engine step at an entry can do: go on to the work after the primitive, take another sample later (R134), or time
out (R135). -/
theorem microStep_cases (st : MicroStep) (rest : StepList) (s : State) :
    (∃ v, microStep st rest s = doWork st.after v ∧ KeepsPlace st.prim (atPrimitive st rest s) v) ∨
    (st.prim = .pollScl ∧ (atPrimitive st rest s).pollcnt + 1 < s.nPoll ∧
      microStep st rest s = setUpc (.run { st with before := [] } rest)
        (drawScl (setPollcnt ((atPrimitive st rest s).pollcnt + 1) (atPrimitive st rest s)))) ∨
    (st.prim = .pollScl ∧
      microStep st rest s = raise .stretchTimeout
        (drawScl (setPollcnt ((atPrimitive st rest s).pollcnt + 1) (atPrimitive st rest s)))) := by
  cases hprim : st.prim with
  | setScl v => exact .inl ⟨_, microStep_setScl rest s hprim, ⟨rfl, rfl, rfl, rfl, rfl, rfl, .inl rfl⟩⟩
  | setSda v => exact .inl ⟨_, microStep_setSda rest s hprim, ⟨rfl, rfl, rfl, rfl, rfl, rfl, .inl rfl⟩⟩
  | settle => exact .inl ⟨_, microStep_settle rest s hprim, ⟨rfl, rfl, rfl, rfl, rfl, rfl, .inl rfl⟩⟩
  | readSda => exact .inl ⟨_, microStep_readSda rest s hprim, ⟨rfl, rfl, rfl, rfl, rfl, rfl, .inl rfl⟩⟩
  | pollScl =>
    rw [microStep_pollScl rest s hprim]
    rcases pollScl_cases st rest (atPrimitive st rest s) with ⟨-, h⟩ | ⟨-, hlt, h⟩ | ⟨-, -, h⟩
    · exact .inl ⟨_, h, ⟨rfl, rfl, rfl, rfl, rfl, rfl, .inr ⟨rfl, rfl⟩⟩⟩
    · exact .inr (.inl ⟨rfl, by simpa using hlt, by rw [h, hprim]⟩)
    · exact .inr (.inr ⟨rfl, h⟩)

/-- What an engine step can do (R45, R264, R280). -/
theorem engineStep_cases (s : State) :
    ((s.rst = true ∨ s.upc = .idle) ∧ engineStep s = s) ∨
    (s.rst = false ∧ s.upc = .fin ∧ engineStep s = finish s) ∨
    (∃ st rest, s.rst = false ∧ s.upc = .run st rest ∧ engineStep s = microStep st rest s) := by
  cases hr : s.rst with
  | true => exact .inl ⟨.inl rfl, engineStep_held hr⟩
  | false =>
    cases hu : s.upc with
    | idle => exact .inl ⟨.inr rfl, engineStep_idle hu⟩
    | fin => exact .inr (.inl ⟨rfl, rfl, engineStep_fin hr hu⟩)
    | run st rest => exact .inr (.inr ⟨st, rest, rfl, rfl, engineStep_run hr hu⟩)

/-- An entry as the step lists have them: nothing raises or counts before its primitive, and a wait is `WaitSCLHigh()`. -/
def soundEntry (st : MicroStep) : Bool := st.before.all prepares && (st.prim != .pollScl || st == waitSclHigh)

/-- The step lists of the eight commands. -/
def stepLists : List StepList :=
  [recvBitList, sendBitList, sendByteList, recvByteList, startList, stopList, sendAddrList, releaseList]

theorem stepListOf_mem (i : Instr) : stepListOf i ∈ stepLists := by
  cases i <;> simp [stepListOf, stepLists]

theorem selectedBy_mem {w : Word} {l : StepList} (h : selectedBy w = some l) : l ∈ stepLists := by
  unfold selectedBy at h
  split at h
  · exact Option.some.inj h ▸ stepListOf_mem _
  · cases h

theorem stepLists_sound : ∀ l ∈ stepLists, ∀ st ∈ l, soundEntry st = true := by decide

theorem stepLists_countedBits_le : ∀ l ∈ stepLists, countedBits l ≤ 8 := by decide

theorem countedBits_append (l m : StepList) : countedBits (l ++ m) = countedBits l + countedBits m := by
  simp [countedBits]

theorem countedBits_cons (st : MicroStep) (l : StepList) :
    countedBits (st :: l) = st.after.count .nextBit + countedBits l := by
  simp [countedBits]

/-! ## The invariant -/

/-- The invariant speaks of the registers, the reset input and N_POLL: the agenda, the replies and the draws do not matter. -/
theorem inv_withOutside {s : State} (h : s.Inv) (pending : List Event) (replies : List Word) (sclIn sdaIn : List Bit)
    (freeSclUsed freeSdaUsed : Nat) :
    ({ s with
        pending := pending, replies := replies, sclIn := sclIn, sdaIn := sdaIn, freeSclUsed := freeSclUsed
        freeSdaUsed := freeSdaUsed } : State).Inv where
  busy_iff := h.busy_iff
  not_busy_and_done := h.not_busy_and_done
  err_le := h.err_le
  resErr_le := h.resErr_le
  bit_without_error := h.bit_without_error
  bitcnt_le := h.bitcnt_le
  nPoll_pos := h.nPoll_pos
  pollcnt_le := h.pollcnt_le
  position := h.position
  reset_held hr := congrArg (fun u : State => { u with
    pending := pending, replies := replies, sclIn := sclIn, sdaIn := sdaIn, freeSclUsed := freeSclUsed
    freeSdaUsed := freeSdaUsed }) (h.reset_held hr)

theorem resetRegisters_inv {s : State} (hn : 1 ≤ s.nPoll) : (resetRegisters s).Inv where
  busy_iff := by simp [resetRegisters, Status.reset]
  not_busy_and_done := by simp [resetRegisters, Status.reset]
  err_le := by simp [resetRegisters, Status.reset]
  resErr_le := by simp [resetRegisters]
  bit_without_error := by simp [resetRegisters, Status.reset]
  bitcnt_le := by simp [resetRegisters]
  nPoll_pos := hn
  pollcnt_le := Nat.zero_le _
  position := trivial
  reset_held _ := rfl

theorem setRst_inv {s : State} (h : s.Inv) (level : Bit) : (setRst level s).Inv := by
  unfold setRst
  split
  · exact resetRegisters_inv h.nPoll_pos
  · exact h

theorem finish_inv {s : State} (h : s.Inv) (hr : s.rst = false) : (finish s).Inv where
  busy_iff := by simp [Status.finished]
  not_busy_and_done := by simp [Status.finished]
  err_le := h.resErr_le
  resErr_le := h.resErr_le
  bit_without_error := by
    simp only [finish_status, Status.finished]
    split <;> simp_all
  bitcnt_le := h.bitcnt_le
  nPoll_pos := h.nPoll_pos
  pollcnt_le := h.pollcnt_le
  position := trivial
  reset_held hr' := by simp [hr] at hr'

theorem discard_inv {s : State} (h : s.Inv) (hr : s.rst = false) : (discard s).Inv where
  busy_iff := h.busy_iff
  not_busy_and_done := h.not_busy_and_done
  err_le := h.err_le
  resErr_le := h.resErr_le
  bit_without_error := h.bit_without_error
  bitcnt_le := h.bitcnt_le
  nPoll_pos := h.nPoll_pos
  pollcnt_le := h.pollcnt_le
  position := h.position
  reset_held hr' := (Bool.false_ne_true (hr.symm.trans hr')).elim

theorem ofList_ne_idle (l : StepList) : Upc.ofList l ≠ .idle := by
  cases l <;> simp [Upc.ofList]

/-- The position after the steps `before` of the selected step list, when the steps `l` are left. -/
theorem legalPosition_ofList {s : State} {before l : StepList} (hu : s.upc = Upc.ofList l)
    (hsel : selectedBy s.cur = some (before ++ l)) (hb : s.bitcnt.toNat = countedBits before) (he : s.resErr = 0#3) :
    LegalPosition s := by
  unfold LegalPosition
  rw [hu]
  cases l with
  | nil => trivial
  | cons st rest => exact ⟨before, st, hsel, .inl rfl, hb, he⟩

theorem legalPosition_fin {s : State} (hu : s.upc = .fin) : LegalPosition s := by
  unfold LegalPosition
  rw [hu]
  trivial

theorem accept_inv {s : State} (h : s.Inv) (hr : s.rst = false) {w : Word} {sel : Option StepList}
    (hsel : selectedBy w = sel) : (accept w sel s).Inv where
  busy_iff := by
    cases sel with
    | none => simp [Status.accepted]
    | some l => simp [Status.accepted, ofList_ne_idle]
  not_busy_and_done := by simp [Status.accepted]
  err_le := by simpa [Status.accepted] using h.err_le
  resErr_le := by cases sel <;> simp
  bit_without_error := by simpa [Status.accepted] using h.bit_without_error
  bitcnt_le := by simp
  nPoll_pos := by simpa using h.nPoll_pos
  pollcnt_le := by simp
  position := by
    cases sel with
    | none => exact legalPosition_fin rfl
    | some l => exact legalPosition_ofList (before := []) rfl hsel rfl rfl
  reset_held hr' := by simp [hr] at hr'

theorem offer_inv {s : State} (h : s.Inv) {w : Word} {sel : Option StepList} (hsel : selectedBy w = sel) :
    (offer w sel s).Inv := by
  rcases offer_cases w sel s with ⟨-, heq⟩ | ⟨hr, -, heq⟩ | ⟨hr, -, heq⟩ <;> rw [heq]
  · exact h
  · exact discard_inv h hr
  · exact accept_inv h hr hsel

/-! ### An engine step at an entry -/

/-- The entry `st` has come to its primitive, with the entries `rest` after it: where the command stands (`AtPosition`), said of
the state within the engine step. -/
structure AtEntry (st : MicroStep) (rest : StepList) (u : State) : Prop where
  upc : u.upc = Upc.ofList rest
  selected : ∃ before first, selectedBy u.cur = some (before ++ first :: rest)
    ∧ first.prim = st.prim ∧ first.after = st.after ∧ u.bitcnt.toNat = countedBits before
  resErr : u.resErr = 0#3
  pollcnt_le : u.pollcnt ≤ u.nPoll

/-- What the invariant says of a command in progress that an entry may change. -/
structure InProgress (t : State) : Prop where
  not_idle : t.upc ≠ .idle
  resErr_le : t.resErr ≤ 3#3
  bitcnt_le : t.bitcnt ≤ 8#4
  pollcnt_le : t.pollcnt ≤ t.nPoll
  position : LegalPosition t

theorem AtEntry.of_keepsPlace {st : MicroStep} {rest : StepList} {u v : State} (h : AtEntry st rest u)
    (hlt : st.prim = .pollScl → u.pollcnt < u.nPoll) (k : KeepsPlace st.prim u v) : AtEntry st rest v where
  upc := k.upc.trans h.upc
  selected := by simpa only [k.cur, k.bitcnt] using h.selected
  resErr := k.resErr.trans h.resErr
  pollcnt_le := by
    rw [k.nPoll]
    rcases k.pollcnt with hp | ⟨hprim, hp⟩ <;> rw [hp]
    · exact h.pollcnt_le
    · exact hlt hprim

/-- The data bits counted up to and with an entry are at most the eight of a frame (R40). -/
theorem AtEntry.counted_le {w : Word} {before rest : StepList} {first : MicroStep}
    (hsel : selectedBy w = some (before ++ first :: rest)) :
    countedBits before + first.after.count .nextBit ≤ 8 := by
  have hle := stepLists_countedBits_le _ (selectedBy_mem hsel)
  rw [countedBits_append, countedBits_cons] at hle
  omega

/-- The work after a primitive leads to the next entry, or to FIN with an error. -/
theorem AtEntry.doWork_after {st : MicroStep} {rest : StepList} {u : State} (h : AtEntry st rest u) :
    InProgress (doWork st.after u) := by
  obtain ⟨before, first, hsel, -, hafter, hb⟩ := h.selected
  have hle := AtEntry.counted_le hsel
  have hbits : (doWork st.after u).bitcnt.toNat = countedBits before + first.after.count .nextBit := by
    rw [doWork_bitcnt, BitVec.toNat_add, BitVec.toNat_ofNat, hb, hafter]
    rw [hafter] at hle
    omega
  have hbound : (doWork st.after u).bitcnt ≤ 8#4 := by
    rw [BitVec.le_def, hbits]
    exact hle
  have hpoll : (doWork st.after u).pollcnt ≤ (doWork st.after u).nPoll := by
    rw [doWork_nPoll]
    exact (doWork_pollcnt_le _ _).trans h.pollcnt_le
  rcases doWork_upc_cases st.after u with ⟨hu, he⟩ | ⟨hu, he⟩
  · have hu' := hu.trans h.upc
    have he' := he.trans h.resErr
    refine ⟨by rw [hu']; exact ofList_ne_idle rest, by rw [he']; decide, hbound, hpoll, ?_⟩
    refine legalPosition_ofList (before := before ++ [first]) hu' ?_ ?_ he'
    · simpa using hsel
    · rw [hbits, countedBits_append, countedBits_cons]
      rfl
  · exact ⟨by rw [hu]; simp, by rw [he]; decide, hbound, hpoll, legalPosition_fin hu⟩

/-- A state that meets the invariant at a step of a step list comes to that step's primitive with the invariant's facts, and to a
sample of a wait with samples left. -/
theorem atEntry_atPrimitive {s : State} (h : s.Inv) {st : MicroStep} {rest : StepList} (hu : s.upc = .run st rest) :
    AtEntry st rest (atPrimitive st rest s)
      ∧ (st.prim = .pollScl → (atPrimitive st rest s).pollcnt < (atPrimitive st rest s).nPoll) := by
  have hpos := h.position
  unfold LegalPosition at hpos
  rw [hu] at hpos
  obtain ⟨before, first, hsel, hnow, hb, he⟩ := hpos
  have hsound : soundEntry first = true := stepLists_sound _ (selectedBy_mem hsel) first (by simp)
  obtain ⟨hprep, hwait⟩ : first.before.all prepares = true ∧ (first.prim ≠ .pollScl ∨ first = waitSclHigh) := by
    simpa [soundEntry] using hsound
  have hprepares : st.before.all prepares = true := by
    rcases hnow with rfl | ⟨-, rfl, -⟩
    · exact hprep
    · rfl
  obtain ⟨hres, hbit⟩ := doWork_resErr_bitcnt_of_prepares hprepares s
  refine ⟨⟨rfl, ⟨before, first, by simpa using hsel, ?_, ?_, by simpa [hbit] using hb⟩,
    by simpa [hres] using he, ?_⟩, fun hprim => ?_⟩
  · rcases hnow with rfl | ⟨-, rfl, -⟩ <;> rfl
  · rcases hnow with rfl | ⟨-, rfl, -⟩ <;> rfl
  · simpa using (doWork_pollcnt_le st.before s).trans h.pollcnt_le
  · rcases hnow with rfl | ⟨-, rfl, -, hlt⟩
    · obtain rfl := hwait.resolve_left (by simp [hprim])
      exact h.nPoll_pos
    · exact hlt

/-- An engine step at an entry leaves the command in progress. -/
theorem microStep_inProgress {s : State} (h : s.Inv) {st : MicroStep} {rest : StepList} (hu : s.upc = .run st rest) :
    InProgress (microStep st rest s) := by
  obtain ⟨hat, hlt⟩ := atEntry_atPrimitive h hu
  obtain ⟨before, first, hsel, hfirst, hafter, hb⟩ := hat.selected
  have hbits : (atPrimitive st rest s).bitcnt ≤ 8#4 := by
    rw [BitVec.le_def, hb]
    exact (Nat.le_add_right _ _).trans (AtEntry.counted_le hsel)
  have hres : (atPrimitive st rest s).resErr ≤ 3#3 := by
    rw [hat.resErr]
    decide
  rcases microStep_cases st rest s with ⟨v, heq, hv⟩ | ⟨hprim, hmore, heq⟩ | ⟨hprim, heq⟩ <;> rw [heq]
  · exact (hat.of_keepsPlace hlt hv).doWork_after
  · refine ⟨by simp, by simpa using hres, by simpa using hbits, by simpa using hmore.le, ?_⟩
    refine ⟨before, first, by simpa using hsel, .inr ⟨hfirst.trans hprim, by rw [hfirst, hafter], by simp, ?_⟩,
      by simpa using hb, by simpa using hat.resErr⟩
    simpa using hmore
  · exact ⟨by simp, by simp [ErrCode.code], by simpa using hbits, by simpa using hlt hprim, legalPosition_fin rfl⟩

theorem microStep_status (st : MicroStep) (rest : StepList) (s : State) : (microStep st rest s).status = s.status := by
  rcases microStep_cases st rest s with ⟨v, heq, hv⟩ | ⟨-, -, heq⟩ | ⟨-, heq⟩ <;> rw [heq]
  · simp [hv.status]
  · simp
  · simp

theorem microStep_inv {s : State} (h : s.Inv) (hr : s.rst = false) {st : MicroStep} {rest : StepList}
    (hu : s.upc = .run st rest) : (microStep st rest s).Inv := by
  have hp := microStep_inProgress h hu
  have hk := microStep_keepsInputs st rest s
  have hs := microStep_status st rest s
  have hbusy : s.status.busy = true := h.busy_iff.mpr (by simp [hu])
  exact
    { busy_iff := by simp [hs, hbusy, hp.not_idle]
      not_busy_and_done := by simpa only [hs] using h.not_busy_and_done
      err_le := by simpa only [hs] using h.err_le
      resErr_le := hp.resErr_le
      bit_without_error := by simpa only [hs] using h.bit_without_error
      bitcnt_le := hp.bitcnt_le
      nPoll_pos := by simpa only [hk.nPoll] using h.nPoll_pos
      pollcnt_le := hp.pollcnt_le
      position := hp.position
      reset_held := fun hr' => by simp [hk.rst, hr] at hr' }

theorem engineStep_inv {s : State} (h : s.Inv) : (engineStep s).Inv := by
  rcases engineStep_cases s with ⟨-, heq⟩ | ⟨hr, -, heq⟩ | ⟨st, rest, hr, hu, heq⟩ <;> rw [heq]
  · exact h
  · exact finish_inv h hr
  · exact microStep_inv h hr hu

theorem engineRun_inv (n : Nat) {s : State} (h : s.Inv) : (engineRun n s).Inv := by
  induction n generalizing s with
  | zero => exact h
  | succ n ih => exact ih (engineStep_inv h)

theorem runCommand_inv {s : State} (h : s.Inv) {w : Word} {sel : Option StepList} (hsel : selectedBy w = sel) :
    (runCommand w sel s).Inv := engineRun_inv _ (offer_inv h hsel)

theorem hostRead_inv {off : BitVec 2} {size : Nat} {s t : State} (h : s.Inv) (ht : hostRead off size s = .next t) : t.Inv := by
  obtain ⟨-, ⟨-, w, rfl⟩ | ⟨-, rfl⟩⟩ := hostRead_cases ht
  · exact inv_withOutside h ..
  · exact inv_withOutside h ..

theorem hostWrite_inv {off : BitVec 2} {size : Nat} {v : Word} {s t : State} (h : s.Inv)
    (ht : hostWrite off size v s = .next t) : t.Inv := by
  obtain ⟨-, ⟨-, rfl⟩ | ⟨-, rfl⟩⟩ := hostWrite_cases ht
  · exact offer_inv h rfl
  · exact h

/-- Every move that answers a next state keeps the invariant. -/
theorem takeEvent_inv {e : Event} {s t : State} (h : s.Inv) (ht : takeEvent e s = .next t) : t.Inv := by
  cases e with
  | command w =>
    cases hd : decode w with
    | command i =>
      simp only [takeEvent, hd, exec_eq_runCommand, Host.Outcome.next.injEq] at ht
      exact ht ▸ runCommand_inv h (selectedBy_encode i)
    | illegal why =>
      simp only [takeEvent, hd, Host.Outcome.next.injEq] at ht
      exact ht ▸ runCommand_inv h (selectedBy_illegal hd)
  | write off size v => exact hostWrite_inv h ht
  | read off size => exact hostRead_inv h ht
  | engine => cases ht; exact engineStep_inv h
  | rst level => cases ht; exact setRst_inv h level

/-! ## How long the Engine takes (R302) -/

/-- The engine steps that may be left: at an entry with a wait, its samples up to N_POLL counted from POLLCNT, and for the entries
after it their cost. -/
def remainingSteps (s : State) : Nat :=
  match s.upc with
  | .idle => 0
  | .fin => 1
  | .run st rest =>
    (if st.prim = .pollScl then max 1 (s.nPoll - (doWork st.before s).pollcnt) else 1) + (Upc.ofList rest).cost s.nPoll

theorem remainingSteps_idle {s : State} (h : s.upc = .idle) : remainingSteps s = 0 := by
  simp [remainingSteps, h]

theorem remainingSteps_fin {s : State} (h : s.upc = .fin) : remainingSteps s = 1 := by
  simp [remainingSteps, h]

theorem remainingSteps_run {s : State} {st : MicroStep} {rest : StepList} (h : s.upc = .run st rest) :
    remainingSteps s =
      (if st.prim = .pollScl then max 1 (s.nPoll - (doWork st.before s).pollcnt) else 1)
        + (Upc.ofList rest).cost s.nPoll := by
  simp [remainingSteps, h]

theorem remainingSteps_le_cost (s : State) : remainingSteps s ≤ s.upc.cost s.nPoll := by
  cases h : s.upc with
  | idle => rw [remainingSteps_idle h, cost_idle]
  | fin => rw [remainingSteps_fin h, cost_fin]
  | run st rest =>
    rw [remainingSteps_run h, cost_run]
    have hst := one_le_stepCost s.nPoll st
    split
    · rename_i hprim
      have hcost : st.cost s.nPoll = max 1 s.nPoll := by simp [MicroStep.cost, hprim]
      omega
    · omega

theorem one_le_cost_ofList (n : Nat) (l : StepList) : 1 ≤ (Upc.ofList l).cost n := by
  cases l with
  | nil => exact le_rfl
  | cons st rest =>
    rw [Upc.ofList, cost_run]
    exact (one_le_stepCost n st).trans (Nat.le_add_right _ _)

/-- An engine step at an entry leaves fewer steps. -/
theorem remainingSteps_microStep_lt {s : State} {st : MicroStep} {rest : StepList} (hu : s.upc = .run st rest) :
    remainingSteps (microStep st rest s) < remainingSteps s := by
  have hone := one_le_cost_ofList s.nPoll rest
  rw [remainingSteps_run hu]
  rcases microStep_cases st rest s with ⟨v, heq, hv⟩ | ⟨hprim, hmore, heq⟩ | ⟨-, heq⟩ <;> rw [heq]
  · have hle : remainingSteps (doWork st.after v) ≤ (Upc.ofList rest).cost s.nPoll := by
      rcases doWork_upc_cases st.after v with ⟨hu', -⟩ | ⟨hu', -⟩
      · have h := remainingSteps_le_cost (doWork st.after v)
        simpa [hu', hv.upc, hv.nPoll] using h
      · rw [remainingSteps_fin hu']
        exact hone
    split <;> omega
  · rw [remainingSteps_run (setUpc_upc ..)]
    simp only [atPrimitive_pollcnt] at hmore
    simp [hprim]
    omega
  · rw [remainingSteps_fin (raise_upc ..)]
    split <;> omega

theorem remainingSteps_engineStep_lt {s : State} (hr : s.rst = false) (hu : s.upc ≠ .idle) :
    remainingSteps (engineStep s) < remainingSteps s := by
  cases h : s.upc with
  | idle => exact absurd h hu
  | fin =>
    rw [engineStep_fin hr h, remainingSteps_fin h, remainingSteps_idle (finish_upc s)]
    exact Nat.one_pos
  | run st rest =>
    rw [engineStep_run hr h]
    exact remainingSteps_microStep_lt h

/-- With the reset input released the Engine is idle after as many steps as may be left. -/
theorem engineRun_upc_of_remainingSteps_le {n : Nat} {s : State} (hr : s.rst = false) (hn : remainingSteps s ≤ n) :
    (engineRun n s).upc = .idle := by
  induction n generalizing s with
  | zero =>
    by_contra hu
    have := remainingSteps_engineStep_lt hr hu
    omega
  | succ n ih =>
    by_cases hu : s.upc = .idle
    · rw [engineRun_idle hu, hu]
    · have hlt := remainingSteps_engineStep_lt hr hu
      exact ih (by rw [engineStep_rst, hr]) (by omega)

theorem runToIdle_upc {s : State} (hr : s.rst = false) : (runToIdle s).upc = .idle :=
  engineRun_upc_of_remainingSteps_le hr (remainingSteps_le_cost s)

/-- Every number of engine steps from the cost of the position on leads to where the Engine becomes idle. -/
theorem engineRun_eq_runToIdle {n : Nat} {s : State} (hr : s.rst = false) (hn : s.upc.cost s.nPoll ≤ n) :
    engineRun n s = runToIdle s :=
  engineRun_of_idle_le hn (runToIdle_upc hr)

/-- The waits among some entries. -/
def waitCount (l : StepList) : Nat := l.countP fun st => st.prim == .pollScl

/-- The cost of a step list with its Finish, by its waits and its other entries. -/
theorem cost_ofList {n : Nat} (hn : 1 ≤ n) (l : StepList) :
    (Upc.ofList l).cost n + waitCount l = l.length + 1 + waitCount l * n := by
  induction l with
  | nil => simp [Upc.ofList, waitCount]
  | cons st rest ih =>
    rw [Upc.ofList, cost_run]
    by_cases hprim : st.prim = .pollScl
    · have hcost : st.cost n = n := by simp [MicroStep.cost, hprim, hn]
      have hcount : waitCount (st :: rest) = waitCount rest + 1 := by simp [waitCount, hprim]
      rw [hcost, hcount, List.length_cons, Nat.add_mul]
      omega
    · have hcost : st.cost n = 1 := by
        cases h : st.prim with
        | pollScl => exact absurd h hprim
        | setScl | setSda | settle | readSda => simp [MicroStep.cost, h]
      have hcount : waitCount (st :: rest) = waitCount rest := by simp [waitCount, hprim]
      rw [hcost, hcount, List.length_cons]
      omega

theorem stepLists_length_waits_le : ∀ l ∈ stepLists, l.length ≤ 53 + waitCount l ∧ waitCount l ≤ 9 := by decide

/-- The longest command is RECV_BYTE with nine waits that all take N_POLL samples (R301). -/
theorem cost_stepListOf_le {n : Nat} (hn : 1 ≤ n) (i : Instr) : (Upc.ofList (stepListOf i)).cost n ≤ 54 + 9 * n := by
  obtain ⟨hlength, hwaits⟩ := stepLists_length_waits_le _ (stepListOf_mem i)
  have hcost := cost_ofList hn (stepListOf i)
  have hmul := Nat.mul_le_mul_right n hwaits
  omega

/-! ## OVERRUN and the Engine (R51) -/

theorem work_discard (w : Work) (s : State) : w.apply (Machine.discard s) = Machine.discard (w.apply s) := by
  cases w with
  | checkArb v => exact (apply_ite Machine.discard ((v.value s && !s.smp) = true) { s with arbAcc := true } s).symm
  | checkIdle => exact (apply_ite Machine.discard (s.smp = true) s (raise .busConflict s)).symm
  | loadData | loadAddr | startWait | returnBit | shiftIn | nextBit | markReceived => rfl

theorem doWork_discard (ws : List Work) (s : State) : doWork ws (Machine.discard s) = Machine.discard (doWork ws s) := by
  induction ws generalizing s with
  | nil => rfl
  | cons w ws ih => rw [doWork_cons, work_discard, ih, doWork_cons]

theorem pollScl_discard (st : MicroStep) (rest : StepList) (s : State) :
    pollScl st rest (Machine.discard s) = Machine.discard (pollScl st rest s) := by
  simp only [pollScl, apply_ite Machine.discard, ← doWork_discard]
  rfl

theorem atPrimitive_discard (st : MicroStep) (rest : StepList) (s : State) :
    atPrimitive st rest (Machine.discard s) = Machine.discard (atPrimitive st rest s) := by
  rw [atPrimitive, doWork_discard]
  rfl

theorem microStep_discard (st : MicroStep) (rest : StepList) (s : State) :
    microStep st rest (Machine.discard s) = Machine.discard (microStep st rest s) := by
  cases hprim : st.prim with
  | setScl v =>
    rw [microStep_setScl _ _ hprim, microStep_setScl _ _ hprim, atPrimitive_discard, ← doWork_discard]
    rfl
  | setSda v =>
    rw [microStep_setSda _ _ hprim, microStep_setSda _ _ hprim, atPrimitive_discard, ← doWork_discard,
      value_congr v (s := atPrimitive st rest s) rfl rfl rfl]
    rfl
  | settle => rw [microStep_settle _ _ hprim, microStep_settle _ _ hprim, atPrimitive_discard, ← doWork_discard]
  | readSda =>
    rw [microStep_readSda _ _ hprim, microStep_readSda _ _ hprim, atPrimitive_discard, ← doWork_discard]
    rfl
  | pollScl => rw [microStep_pollScl _ _ hprim, microStep_pollScl _ _ hprim, atPrimitive_discard, pollScl_discard]

/-- OVERRUN raised by a discarded write makes no difference to the Engine: Finish keeps it, and nothing reads it. -/
theorem engineStep_discard (s : State) : engineStep (Machine.discard s) = Machine.discard (engineStep s) := by
  cases hr : s.rst with
  | true => rw [engineStep_held hr, engineStep_held (s := Machine.discard s) hr]
  | false =>
    cases hu : s.upc with
    | idle => rw [engineStep_idle hu, engineStep_idle (s := Machine.discard s) hu]
    | fin =>
      rw [engineStep_fin hr hu, engineStep_fin (s := Machine.discard s) hr hu]
      rfl
    | run st rest => rw [engineStep_run hr hu, engineStep_run (s := Machine.discard s) hr hu, microStep_discard]

theorem engineRun_discard (n : Nat) (s : State) : engineRun n (Machine.discard s) = Machine.discard (engineRun n s) := by
  induction n generalizing s with
  | zero => rfl
  | succ n ih => rw [engineRun_succ, engineStep_discard, ih, engineRun_succ]

theorem runToIdle_discard (s : State) : runToIdle (Machine.discard s) = Machine.discard (runToIdle s) :=
  engineRun_discard _ s

/-! ## Steps of the core -/

theorem run_succ_of_step_eq_next {M : Host.Core} {s t : M.State} (h : M.step s = .next t) (k : Nat) :
    M.run (k + 1) s = M.run k t := by
  rw [Host.Core.run, h]

/-- With nothing pending, steps of the core are engine steps (R45). -/
theorem core_run_engine (n : Nat) {s : State} (hp : s.pending = []) :
    Host.Core.run core n s = .next (engineRun n s) := by
  induction n generalizing s with
  | zero => rfl
  | succ n ih =>
    exact (run_succ_of_step_eq_next (M := core) (step_nil hp) n).trans (ih (by rw [engineStep_pending, hp]))

/-- A CMD write as the one pending move, then engine steps (R46, R45). -/
theorem core_run_cmdWrite (n : Nat) (v : Word) {s : State} (hp : s.pending = []) :
    Host.Core.run core (n + 1) { s with pending := [.write 0x0#2 2 v] } = .next (engineRun n (offerWord v s)) := by
  have hnone : ({ s with pending := [] } : State) = s := by rw [← hp]
  have hstep : core.step { s with pending := [.write 0x0#2 2 v] } = .next (offerWord v s) := by
    refine (step_cons (s := { s with pending := [.write 0x0#2 2 v] }) rfl).trans ?_
    rw [takeEvent_write, hostWrite_cmd]
    exact congrArg (fun u => Host.Outcome.next (offerWord v u)) hnone
  refine (run_succ_of_step_eq_next hstep n).trans (core_run_engine n ?_)
  rcases offer_cases v (selectedBy v) s with ⟨-, h⟩ | ⟨-, -, h⟩ | ⟨-, -, h⟩ <;> rw [offerWord, h]
  · exact hp
  · exact hp
  · rw [accept_pending, hp]

/-! ## The line outputs (R33, R34) -/

theorem nextToken_setScl {s : State} {st : MicroStep} {rest : StepList} (hr : s.rst = false) (hu : s.upc = .run st rest)
    {v : Bit} (h : st.prim = .setScl v) : nextToken s = some (.c v) := by
  simp [nextToken_run hr hu, h]

theorem nextToken_setSda {s : State} {st : MicroStep} {rest : StepList} (hr : s.rst = false) (hu : s.upc = .run st rest)
    {v : BitSrc} (h : st.prim = .setSda v) : nextToken s = some (.d (v.value (doWork st.before s))) := by
  simp [nextToken_run hr hu, h]

theorem pollScl_lines (st : MicroStep) (rest : StepList) (s : State) :
    (pollScl st rest s).sclOut = s.sclOut ∧ (pollScl st rest s).sdaOut = s.sdaOut := by
  rcases pollScl_cases st rest s with ⟨-, h⟩ | ⟨-, -, h⟩ | ⟨-, -, h⟩ <;> simp [h]

/-- An engine step leaves SCL_OUT alone or is the SetSCL of its new value. -/
theorem engineStep_sclOut (s : State) :
    (engineStep s).sclOut = s.sclOut ∨ nextToken s = some (.c (engineStep s).sclOut) := by
  rcases engineStep_cases s with ⟨-, heq⟩ | ⟨-, -, heq⟩ | ⟨st, rest, hr, hu, heq⟩ <;> rw [heq]
  · exact .inl rfl
  · exact .inl rfl
  · cases hprim : st.prim with
    | setScl v => exact .inr (by simp [nextToken_setScl hr hu hprim, microStep_setScl rest s hprim])
    | setSda v => exact .inl (by simp [microStep_setSda rest s hprim])
    | settle => exact .inl (by simp [microStep_settle rest s hprim])
    | readSda => exact .inl (by simp [microStep_readSda rest s hprim])
    | pollScl => exact .inl (by simp [microStep_pollScl rest s hprim, pollScl_lines])

/-- An engine step leaves SDA_OUT alone or is the SetSDA of its new value. -/
theorem engineStep_sdaOut (s : State) :
    (engineStep s).sdaOut = s.sdaOut ∨ nextToken s = some (.d (engineStep s).sdaOut) := by
  rcases engineStep_cases s with ⟨-, heq⟩ | ⟨-, -, heq⟩ | ⟨st, rest, hr, hu, heq⟩ <;> rw [heq]
  · exact .inl rfl
  · exact .inl rfl
  · cases hprim : st.prim with
    | setScl v => exact .inl (by simp [microStep_setScl rest s hprim])
    | setSda v =>
      have hv : v.value (atPrimitive st rest s) = v.value (doWork st.before s) := value_congr v (by simp) rfl rfl
      exact .inr (by simp [nextToken_setSda hr hu hprim, microStep_setSda rest s hprim, hv])
    | settle => exact .inl (by simp [microStep_settle rest s hprim])
    | readSda => exact .inl (by simp [microStep_readSda rest s hprim])
    | pollScl => exact .inl (by simp [microStep_pollScl rest s hprim, pollScl_lines])

theorem offer_lines (w : Word) (sel : Option StepList) (s : State) :
    (offer w sel s).sclOut = s.sclOut ∧ (offer w sel s).sdaOut = s.sdaOut := by
  rcases offer_cases w sel s with ⟨-, h⟩ | ⟨-, -, h⟩ | ⟨-, -, h⟩ <;> rw [h]
  · exact ⟨rfl, rfl⟩
  · exact ⟨rfl, rfl⟩
  · exact ⟨accept_sclOut .., accept_sdaOut ..⟩

theorem hostRead_lines {off : BitVec 2} {size : Nat} {s t : State} (h : hostRead off size s = .next t) :
    t.sclOut = s.sclOut ∧ t.sdaOut = s.sdaOut := by
  obtain ⟨-, ⟨-, w, rfl⟩ | ⟨-, rfl⟩⟩ := hostRead_cases h <;> exact ⟨rfl, rfl⟩

theorem hostWrite_lines {off : BitVec 2} {size : Nat} {v : Word} {s t : State} (h : hostWrite off size v s = .next t) :
    t.sclOut = s.sclOut ∧ t.sdaOut = s.sdaOut := by
  obtain ⟨-, ⟨-, rfl⟩ | ⟨-, rfl⟩⟩ := hostWrite_cases h
  · exact offer_lines ..
  · exact ⟨rfl, rfl⟩

/-- A change of the reset input changes nothing or releases both lines (R282). -/
theorem setRst_lines (level : Bit) (s : State) :
    setRst level s = s ∨ ((setRst level s).sclOut = true ∧ (setRst level s).sdaOut = true) := by
  unfold setRst
  split
  · exact .inr ⟨rfl, rfl⟩
  · exact .inl rfl

/-! ## The words the port returns (R48, R57) -/

/-- STATUS bit by bit. -/
theorem status_word_getLsbD (st : Status) (i : Nat) :
    st.word.getLsbD i =
      if i = 0 then st.busy
      else if i = 1 then st.done
      else if i = 2 then st.overrun
      else if i < 6 then st.err.getLsbD (i - 3)
      else if i = 6 then st.arbLost
      else if i = 7 then st.bit
      else st.rxdata.getLsbD (i - 8) := by
  grind [Status.word]

/-- Each field of STATUS in its bits. -/
theorem status_word_fields (st : Status) :
    st.word.getLsbD 0 = st.busy ∧ st.word.getLsbD 1 = st.done ∧ st.word.getLsbD 2 = st.overrun
      ∧ st.word.extractLsb' 3 3 = st.err ∧ st.word.getLsbD 6 = st.arbLost ∧ st.word.getLsbD 7 = st.bit
      ∧ st.word.extractLsb' 8 8 = st.rxdata := by
  have h := status_word_getLsbD st
  refine ⟨h 0, h 1, h 2, ?_, h 6, h 7, ?_⟩
  · ext i hi
    rw [BitVec.getElem_extractLsb', h, if_neg (by omega), if_neg (by omega), if_neg (by omega), if_pos (by omega),
      Nat.add_sub_cancel_left, BitVec.getLsbD_eq_getElem hi]
  · ext i hi
    rw [BitVec.getElem_extractLsb', h, if_neg (by omega), if_neg (by omega), if_neg (by omega), if_neg (by omega),
      if_neg (by omega), if_neg (by omega), Nat.add_sub_cancel_left, BitVec.getLsbD_eq_getElem hi]

/-- Each level of LINES in its bit, and zeros above. -/
theorem linesWord_fields (sdaWire sclWire sdaOut sclOut : Bit) :
    (linesWord sdaWire sclWire sdaOut sclOut).getLsbD 0 = sclOut
      ∧ (linesWord sdaWire sclWire sdaOut sclOut).getLsbD 1 = sdaOut
      ∧ (linesWord sdaWire sclWire sdaOut sclOut).getLsbD 2 = sclWire
      ∧ (linesWord sdaWire sclWire sdaOut sclOut).getLsbD 3 = sdaWire
      ∧ (linesWord sdaWire sclWire sdaOut sclOut).extractLsb' 4 12 = 0#12 := by
  revert sdaWire sclWire sdaOut sclOut
  decide

theorem linesWord_outputs (sdaWire sclWire sdaOut sclOut : Bit) :
    (linesWord sdaWire sclWire sdaOut sclOut).extractLsb' 0 2 = BitVec.ofBool sdaOut ++ BitVec.ofBool sclOut := by
  revert sdaWire sclWire sdaOut sclOut
  decide

theorem hostRead_status {s : State} (h : s.status.err ≤ 3#3) : hostRead 0x1#2 2 s = .next (reply s.status.word s) := by
  have hlt : ¬ 4#3 ≤ s.status.err := by
    rw [BitVec.le_def] at h ⊢
    simp at h ⊢
    omega
  simp [hostRead, hlt]

theorem hostRead_lines_word (s : State) :
    hostRead 0x2#2 2 s =
      .next (reply (linesWord (s.sdaOut && sdaAt s 0) (s.sclOut && sclAt s 0) s.sdaOut s.sclOut) (drawSda (drawScl s))) := by
  rw [sclAt_zero, sdaAt_zero]
  rfl

/-! ## The obligations of 10_state.md -/

/-- Settles O44: the step takes one move, and every move keeps the invariant. -/
theorem stepKeepsTheInvariant : Obligations.StepKeepsTheInvariant := by
  intro s t h ht
  cases hp : s.pending with
  | nil =>
    rw [step_nil hp] at ht
    cases ht
    exact engineStep_inv h
  | cons e later =>
    rw [step_cons hp] at ht
    exact takeEvent_inv (inv_withOutside h later _ _ _ _ _) ht

/-- Settles O15: by the kind of move, an engine step being a SetSCL or SetSDA or leaving the line alone. -/
theorem onlyEngineAndResetWriteLines : Obligations.OnlyEngineAndResetWriteLines := by
  intro e s t hcmd ht
  cases e with
  | command w => exact absurd rfl (hcmd w)
  | write off size v =>
    obtain ⟨hscl, hsda⟩ := hostWrite_lines ht
    exact ⟨fun h => absurd hscl h, fun h => absurd hsda h⟩
  | read off size =>
    obtain ⟨hscl, hsda⟩ := hostRead_lines ht
    exact ⟨fun h => absurd hscl h, fun h => absurd hsda h⟩
  | engine =>
    cases ht
    exact ⟨fun h => .inl ⟨rfl, (engineStep_sclOut s).resolve_left h⟩, fun h => .inl ⟨rfl, (engineStep_sdaOut s).resolve_left h⟩⟩
  | rst level =>
    cases ht
    rcases setRst_lines level s with h | ⟨hscl, hsda⟩
    · exact ⟨fun hne => absurd (by rw [h]) hne, fun hne => absurd (by rw [h]) hne⟩
    · exact ⟨fun _ => .inr ⟨⟨level, rfl⟩, hscl⟩, fun _ => .inr ⟨⟨level, rfl⟩, hsda⟩⟩

/-- Settles O46: after the write the Engine is idle within the bound on its steps, and OVERRUN makes no difference to it. -/
theorem execIsItsAtomicSteps : Obligations.ExecIsItsAtomicSteps := by
  refine ⟨fun i s t n ⟨hr, hb, hn⟩ hp hle ht => ?_, fun i s hr hb => ?_⟩
  · have hoffer : offer (encode i) (some (stepListOf i)) s = accept (encode i) (some (stepListOf i)) s := by
      simp [offer, hr, hb]
    have hcost : (offer (encode i) (some (stepListOf i)) s).upc.cost (offer (encode i) (some (stepListOf i)) s).nPoll ≤ n := by
      rw [hoffer, accept_some_upc, accept_nPoll]
      exact (cost_stepListOf_le hn i).trans hle
    have hrun : engineRun n (offerWord (encode i) s) = runCommand (encode i) (some (stepListOf i)) s := by
      rw [offerWord, selectedBy_encode]
      exact engineRun_eq_runToIdle (by rw [hoffer, accept_rst, hr]) hcost
    rw [exec_eq_runCommand, ← hrun] at ht
    exact (core_run_cmdWrite n (encode i) hp).trans ht
  · rw [exec_eq_runCommand, runCommand, offer_busy _ _ hr hb, runToIdle_discard]

/-- Settles O10, by what decode selects for the word. -/
theorem acceptanceLatchesOrSetsOverrun : Obligations.AcceptanceLatchesOrSetsOverrun := by
  intro v s hr
  refine ⟨fun hb => ⟨accept v (selectedBy v) s, ?_⟩, fun hb => ?_⟩
  · rw [hostWrite_cmd, offerWord_ready v hr hb]
    refine ⟨rfl, by simp, by simp, by simp, by simp, by simp, by simp, by simp [Status.accepted], ?_, ?_, by simp, by simp,
      by simp, by simp, by simp, by simp, by simp, by simp, ?_, ?_, by simp, by simp⟩
    · intro i hi
      simp [selectedBy_command hi]
    · intro why hi
      simp [selectedBy_illegal hi]
    · apply sclAt_congr <;> simp
    · apply sdaAt_congr <;> simp
  · rw [hostWrite_cmd, offerWord, offer_busy _ _ hr hb]
    rfl

/-- Settles O11, by whether a byte has been received. -/
theorem finishWritesStatus : Obligations.FinishWritesStatus := by
  intro s hr hu
  rw [engineStep_fin hr hu]
  cases hrx : s.rxValid <;> simp [finish, Status.finished, hrx]

/-- Settles O16: an empty agenda steps the Engine, and an idle Engine takes no step. -/
theorem emptyAgendaLeavesTheMoveToTheEngine : Obligations.EmptyAgendaLeavesTheMoveToTheEngine := by
  intro s hp
  have hstep : step s = .next (engineStep s) := step_nil hp
  exact ⟨fun hu => by rw [hstep, engineStep_idle hu], hstep⟩

/-- Settles O38: STATUS and LINES by the fields of their words. -/
theorem portReadsShowTheRegisters : Obligations.PortReadsShowTheRegisters := by
  intro s herr
  exact ⟨rfl, ⟨_, hostRead_status herr, status_word_fields s.status⟩, ⟨_, hostRead_lines_word s, linesWord_fields ..⟩, rfl⟩

/-- Settles O41: the registers by their definition, LINES by the fields of its word. -/
theorem resetValues : Obligations.ResetValues := by
  obtain ⟨-, -, hscl, hsda, -⟩ := linesWord_fields (sdaAt State.reset 0) (sclAt State.reset 0) true true
  exact ⟨rfl, rfl, rfl, rfl, rfl, rfl, rfl, rfl, rfl, rfl, rfl, rfl, rfl,
    _, hostRead_lines_word State.reset, linesWord_outputs .., hscl, hsda⟩

/-- Settles O43: the state after reset is its own registers at their reset values, with `N_POLL` at least 1. -/
theorem resetMeetsTheInvariant : Obligations.ResetMeetsTheInvariant :=
  resetRegisters_inv (s := State.reset) (Nat.le_add_left 1 _)

end Sys2Proof.Proofs

end

section
/-! SUPPORT and the settled statements of 20_memory.md: when the port refuses an access, what a read leaves for the next one, and
what no move does to CUR. -/

namespace Sys2Proof.Proofs

open Sys2Proof.Machine Sys2Proof.Laws

/-! ## Refused accesses (R75) -/

theorem hostRead_refused_iff {off : BitVec 2} {size : Nat} {s : State} {r : Refusal} :
    hostRead off size s = .refused r ↔ size ≠ 2 ∧ r = .accessSize := by
  by_cases hsize : size = 2
  · simp only [hostRead, hsize, ne_eq, not_true_eq_false, if_false, false_and, iff_false]
    split_ifs <;> simp
  · simp [hostRead, hsize, eq_comm]

theorem hostWrite_refused_iff {off : BitVec 2} {size : Nat} {v : Word} {s : State} {r : Refusal} :
    hostWrite off size v s = .refused r ↔ size ≠ 2 ∧ r = .accessSize := by
  by_cases hsize : size = 2
  · simp only [hostWrite, hsize, ne_eq, not_true_eq_false, if_false, false_and, iff_false]
    split_ifs <;> simp
  · simp [hostWrite, hsize, eq_comm]

/-! ## Reads and writes off CMD (R77) -/

theorem hostWrite_of_ne_cmd {off : BitVec 2} (hoff : off ≠ 0x0#2) (v : Word) (s : State) : hostWrite off 2 v s = .next s := by
  simp [hostWrite, hoff]

theorem reply_inj {w v : Word} {s : State} : reply w s = reply v s ↔ w = v := by
  simp [reply]

/-- An earlier reply makes no difference to what a read returns, but for LINES, which samples. -/
theorem hostRead_reply_iff {off : BitVec 2} (hoff : off ≠ 0x2#2) (size : Nat) (v w : Word) (s : State) :
    hostRead off size (reply v s) = .next (reply w (reply v s)) ↔ hostRead off size s = .next (reply w s) := by
  simp only [hostRead, if_neg hoff, reply_cur, reply_status]
  split_ifs <;> simp [*, reply_inj]

/-! ## Whole commands and CUR (R83, R109) -/

/-- A word the Host offers and waits for is run as decode selects, legal or not (R110, R212). -/
theorem takeEvent_command (w : Word) (s : State) :
    ∃ v, takeEvent (.command w) s = .next (runCommand v (selectedBy w) s) := by
  cases hd : decode w with
  | command i => exact ⟨encode i, by rw [selectedBy_command hd, ← exec_eq_runCommand]; simp [takeEvent, hd]⟩
  | illegal why => exact ⟨w, by rw [selectedBy_illegal hd]; simp [takeEvent, hd, runIllegal]⟩

/-- No offer replaces the word of a command in progress (R46). -/
theorem offer_cur_of_busy {s : State} (hb : s.status.busy = true) (w : Word) (sel : Option StepList) :
    (offer w sel s).cur = s.cur := by
  rcases offer_cases w sel s with ⟨-, h⟩ | ⟨-, -, h⟩ | ⟨-, hidle, -⟩
  · rw [h]
  · rw [h, discard_cur]
  · simp [hb] at hidle

theorem runCommand_cur_of_busy {s : State} (hb : s.status.busy = true) (w : Word) (sel : Option StepList) :
    (runCommand w sel s).cur = s.cur := by
  rw [runCommand, runToIdle, engineRun_cur, offer_cur_of_busy hb]

/-! ## The obligations of 20_memory.md -/

/-- Settles O14: by the kind of move. An offer is discarded while BUSY = 1, and nothing else but reset writes CUR. -/
theorem commandInProgressKeepsItsWord : Obligations.CommandInProgressKeepsItsWord := by
  intro e s t hb hrst ht
  cases e with
  | command w =>
    obtain ⟨v, hv⟩ := takeEvent_command w s
    cases hv.symm.trans ht
    exact runCommand_cur_of_busy hb v _
  | write off size v =>
    obtain ⟨-, ⟨-, rfl⟩ | ⟨-, rfl⟩⟩ := hostWrite_cases ht
    · exact offer_cur_of_busy hb v _
    · rfl
  | read off size => obtain ⟨-, ⟨-, w, rfl⟩ | ⟨-, rfl⟩⟩ := hostRead_cases ht <;> rfl
  | engine =>
    cases ht
    exact engineStep_cur s
  | rst level => exact absurd rfl (hrst level)

/-- Settles O39: a read gives a reply, and for LINES takes a sample of each line; it does nothing else. -/
theorem portAccessSideEffects : Obligations.PortAccessSideEffects := by
  refine ⟨fun off v s hoff => hostWrite_of_ne_cmd hoff v s, fun off size s t ht => ?_, fun off s t u hoff ht hu => ?_⟩
  · obtain ⟨-, ⟨hoff, w, rfl⟩ | ⟨hoff, rfl⟩⟩ := hostRead_cases ht
    · exact ⟨⟨w, rfl⟩, rfl, fun h => absurd h hoff, fun _ => ⟨rfl, rfl⟩⟩
    · exact ⟨⟨_, rfl⟩, rfl, fun _ => ⟨sclAt_drawScl s, sdaAt_drawSda s⟩, fun h => absurd hoff h⟩
  · obtain ⟨-, ⟨-, w, rfl⟩ | ⟨hlines, -⟩⟩ := hostRead_cases ht
    · cases ((hostRead_reply_iff hoff 2 w w s).mpr ht).symm.trans hu
      exact ⟨w, rfl, rfl⟩
    · exact absurd hlines hoff

/-- Settles O40: by the kind of the next move, a Host access of another size being the only one that is refused. -/
theorem onlyOddSizedAccessesAreRefused : Obligations.OnlyOddSizedAccessesAreRefused := by
  refine ⟨fun off size v s hsize => ⟨hostRead_refused_iff.mpr ⟨hsize, rfl⟩, hostWrite_refused_iff.mpr ⟨hsize, rfl⟩⟩,
    fun s r hr => ?_⟩
  cases hp : s.pending with
  | nil =>
    rw [step_nil hp] at hr
    cases hr
  | cons e later =>
    rw [step_cons hp] at hr
    cases e with
    | command w =>
      obtain ⟨v, hv⟩ := takeEvent_command w { s with pending := later }
      cases hv.symm.trans hr
    | write off size v =>
      obtain ⟨hsize, rfl⟩ := hostWrite_refused_iff.mp hr
      exact ⟨rfl, off, size, later, hsize, .inr ⟨v, rfl⟩⟩
    | read off size =>
      obtain ⟨hsize, rfl⟩ := hostRead_refused_iff.mp hr
      exact ⟨rfl, off, size, later, hsize, .inl rfl⟩
    | engine => cases hr
    | rst level => cases hr

end Sys2Proof.Proofs

end

section
/-! SUPPORT and the settled statements of 30_encoding.md. A word that selects a row is the word of a command of that row, so what
the decoder does with every word follows from what it does with the words of commands (`decode_encode`). -/

namespace Sys2Proof.Proofs

open Sys2Proof.Machine Sys2Proof.Laws

/-! ## Rows of the opcode table (R105) -/

theorem selects_iff {row : OpcodeRow} {w : Word} : row.selects w = true ↔ w &&& row.mask = row.mtch := by
  simp [OpcodeRow.selects]

theorem selects_opcodeRow_encode (i : Instr) : (opcodeRow i).selects (encode i) = true := by
  cases i with
  | recvBit => exact EncodingPattern.recvBit
  | sendBit b => exact EncodingPattern.sendBit b
  | sendByte d => exact EncodingPattern.sendByte d
  | recvByte => exact EncodingPattern.recvByte
  | start => exact EncodingPattern.start
  | stop => exact EncodingPattern.stop
  | sendAddr id r => exact EncodingPattern.sendAddr id r
  | release => exact EncodingPattern.release
  | recvAck => exact EncodingPattern.recvAck
  | sendAck => exact EncodingPattern.sendAck
  | sendNack => exact EncodingPattern.sendNack

/-- A word is what a row fixes of it together with what the row leaves free. -/
theorem eq_mtch_or_free {row : OpcodeRow} {w : Word} (h : row.selects w = true) :
    w = row.mtch ||| (w &&& ~~~row.mask) := by
  rw [← selects_iff.mp h, ← BitVec.and_or_distrib_left, BitVec.or_not_self, BitVec.and_allOnes]

/-! ## The free bits of a row are its operands (R103) -/

theorem encode_sendBit_bField (w : Word) : encode (.sendBit (bField w)) = 0x0002#16 ||| (w &&& ~~~0xFEFF#16) := by
  simp only [encode, bField]
  congr 1
  ext k hk
  interval_cases k <;> simp

theorem encode_sendByte_argField (w : Word) : encode (.sendByte (argField w)) = 0x0003#16 ||| (w &&& ~~~0x00FF#16) := by
  simp only [encode, argField]
  congr 1
  ext k hk
  interval_cases k <;> simp

theorem encode_sendAddr_fields (w : Word) :
    encode (.sendAddr (idField w) (rField w)) = 0x0007#16 ||| (w &&& ~~~0x80EF#16) := by
  simp only [encode, idField, rField, BitVec.or_assoc]
  congr 1
  ext k hk
  interval_cases k <;> simp

/-! ## Words that select a row -/

/-- Every way of filling a row's free bits is the word of a command of that row. -/
theorem exists_encode_eq_mtch_or_free {row : OpcodeRow} (hrow : row ∈ opcodeTable) (w : Word) :
    ∃ i : Instr, i.wellFormed = true ∧ opcodeRow i = row ∧ encode i = row.mtch ||| (w &&& ~~~row.mask) := by
  simp only [opcodeTable, List.mem_cons, List.not_mem_nil, or_false] at hrow
  rcases hrow with rfl | rfl | rfl | rfl | rfl | rfl | rfl | rfl
  · exact ⟨.recvBit, rfl, rfl, by simp [encode]⟩
  · exact ⟨.sendBit (bField w), rfl, rfl, encode_sendBit_bField w⟩
  · exact ⟨.sendByte (argField w), rfl, rfl, encode_sendByte_argField w⟩
  · exact ⟨.recvByte, rfl, rfl, by simp [encode]⟩
  · exact ⟨.start, rfl, rfl, by simp [encode]⟩
  · exact ⟨.stop, rfl, rfl, by simp [encode]⟩
  · exact ⟨.sendAddr (idField w) (rField w), rfl, rfl, encode_sendAddr_fields w⟩
  · exact ⟨.release, rfl, rfl, by simp [encode]⟩

theorem exists_encode_of_selects {row : OpcodeRow} {w : Word} (hrow : row ∈ opcodeTable) (h : row.selects w = true) :
    ∃ i : Instr, i.wellFormed = true ∧ opcodeRow i = row ∧ encode i = w := by
  obtain ⟨i, hwf, hi, hw⟩ := exists_encode_eq_mtch_or_free hrow w
  exact ⟨i, hwf, hi, hw.trans (eq_mtch_or_free h).symm⟩

/-- A word that selects no row fails every test of the decoder (R110). -/
theorem exists_selects_of_decode {w : Word} {i : Instr} (h : decode w = .command i) :
    ∃ row ∈ opcodeTable, row.selects w = true := by
  by_contra! hnone
  simp only [opcodeTable, List.forall_mem_cons, ne_eq, selects_iff] at hnone
  obtain ⟨h1, h2, h3, h4, h5, h6, h7, h8, -⟩ := hnone
  simp [decode, *] at h

/-! ## The decoder against the encoder -/

theorem expand_eq_self {i : Instr} (h : i.wellFormed = true) : i.expand = i := by
  cases i with
  | recvAck | sendAck | sendNack => cases h
  | recvBit | sendBit | sendByte | recvByte | start | stop | sendAddr | release => rfl

theorem decode_encode_of_wellFormed {i : Instr} (h : i.wellFormed = true) : decode (encode i) = .command i := by
  rw [decode_encode, expand_eq_self h]

/-- A word decodes to a command exactly when it is that command's word. -/
theorem decode_eq_command_iff {w : Word} {i : Instr} : decode w = .command i ↔ encode i = w ∧ i.wellFormed = true := by
  refine ⟨fun h => ?_, fun ⟨hw, hwf⟩ => hw ▸ decode_encode_of_wellFormed hwf⟩
  obtain ⟨row, hrow, hsel⟩ := exists_selects_of_decode h
  obtain ⟨j, hwf, -, rfl⟩ := exists_encode_of_selects hrow hsel
  cases (decode_encode_of_wellFormed hwf).symm.trans h
  exact ⟨rfl, hwf⟩

theorem isLegal_iff {w : Word} : isLegal w = true ↔ ∃ i, decode w = .command i := by
  unfold isLegal
  split <;> simp [*]

theorem isLegal_iff_exists_selects {w : Word} : isLegal w = true ↔ ∃ row ∈ opcodeTable, row.selects w = true := by
  refine isLegal_iff.trans ⟨fun ⟨i, h⟩ => exists_selects_of_decode h, fun ⟨row, hrow, hsel⟩ => ?_⟩
  obtain ⟨i, hwf, -, hw⟩ := exists_encode_of_selects hrow hsel
  exact ⟨i, decode_eq_command_iff.mpr ⟨hw, hwf⟩⟩

/-! ## Settled statements of 30_encoding.md -/

/-- Settles O2: from `decode_encode`, a command being its own expansion. -/
theorem decodeEncodeRoundTrip : Obligations.DecodeEncodeRoundTrip :=
  ⟨decode_encode, fun _ => decode_encode_of_wellFormed⟩

/-- Settles O3: the word selects a row, so it is the word of a command of that row, which it decodes to. -/
theorem encodeIsTheOnlyWord : Obligations.EncodeIsTheOnlyWord :=
  fun _ _ => decode_eq_command_iff.mp

/-- Settles O4: a word that selects a row is the word of a command of that row. Two rows a word selects are therefore the row of
one command, and an operand read from a command's word is the command's own. -/
theorem decodeFollowsTheOpcodeTable : Obligations.DecodeFollowsTheOpcodeTable := by
  have hrowOf : ∀ (w : Word) (row : OpcodeRow), row ∈ opcodeTable → row.selects w = true →
      ∃ i, decode w = .command i ∧ opcodeRow i = row := by
    intro w row hrow hsel
    obtain ⟨i, hwf, hi, hw⟩ := exists_encode_of_selects hrow hsel
    exact ⟨i, decode_eq_command_iff.mpr ⟨hw, hwf⟩, hi⟩
  refine ⟨fun w i h => ?_, hrowOf, fun w a b ha hb hsa hsb => ?_, fun w => ?_, fun w b h => ?_, fun w d h => ?_,
    fun w id r h => ?_⟩
  · obtain ⟨rfl, -⟩ := decode_eq_command_iff.mp h
    exact selects_opcodeRow_encode i
  · obtain ⟨i, hi, rfl⟩ := hrowOf w a ha hsa
    obtain ⟨j, hj, rfl⟩ := hrowOf w b hb hsb
    cases hi.symm.trans hj
    rfl
  · simp [← Bool.not_eq_true, isLegal_iff_exists_selects]
  · obtain ⟨rfl, -⟩ := decode_eq_command_iff.mp h
    exact (bField_encode_sendBit b).symm
  · obtain ⟨rfl, -⟩ := decode_eq_command_iff.mp h
    exact (argField_encode_sendByte d).symm
  · obtain ⟨rfl, -⟩ := decode_eq_command_iff.mp h
    exact ⟨(idField_encode_sendAddr id r).symm, (rField_encode_sendAddr id r).symm⟩

/-! ## Counting the commands (R106) -/

/-- Every value of an operand of `n` bits. -/
def operandValues (n : Nat) : List (BitVec n) := (List.finRange (2 ^ n)).map BitVec.ofFin

theorem mem_operandValues {n : Nat} (v : BitVec n) : v ∈ operandValues n :=
  List.mem_map.mpr ⟨v.toFin, List.mem_finRange _, rfl⟩

theorem nodup_operandValues (n : Nat) : (operandValues n).Nodup :=
  (List.nodup_finRange _).map fun _ _ h => BitVec.ofFin.inj h

@[simp] theorem length_operandValues (n : Nat) : (operandValues n).length = 2 ^ n := by
  simp [operandValues]

/-- The commands without an operand. -/
def plainCommands : List Instr := [.recvBit, .recvByte, .start, .stop, .release]

/-- The eight commands at every value of their operands. -/
def allCommands : List Instr :=
  plainCommands ++ ([false, true].map .sendBit ++ ((operandValues 8).map .sendByte
    ++ (operandValues 7 ×ˢ [false, true]).map fun (id, r) => .sendAddr id r))

theorem mem_allCommands {i : Instr} : i ∈ allCommands ↔ i.wellFormed = true := by
  cases i <;> simp [allCommands, plainCommands, mem_operandValues, Instr.wellFormed, Instr.isAlias]

theorem nodup_allCommands : allCommands.Nodup := by
  refine List.Nodup.append (by decide) (List.Nodup.append (by decide) (List.Nodup.append ?_ ?_ ?_) ?_) ?_
  · exact (nodup_operandValues 8).map fun _ _ h => Instr.sendByte.inj h
  · refine ((nodup_operandValues 7).product (by decide)).map fun _ _ h => ?_
    exact Prod.ext_iff.mpr (Instr.sendAddr.inj h)
  all_goals simp [List.Disjoint, plainCommands]

theorem length_allCommands : allCommands.length = 519 := by
  simp [allCommands, plainCommands, List.length_product]

theorem encode_injOn_wellFormed {i j : Instr} (hi : i.wellFormed = true) (hj : j.wellFormed = true)
    (h : encode i = encode j) : i = j := by
  have hd := decode_encode_of_wellFormed hi
  rw [h, decode_encode_of_wellFormed hj] at hd
  cases hd
  rfl

/-- Settles O5: the list is the words of all commands, which are different since the decoder tells them apart. -/
theorem legalWordsAre519 : Obligations.LegalWordsAre519 := by
  refine ⟨allCommands.map encode, ?_, by simp [length_allCommands], fun w => ?_⟩
  · exact nodup_allCommands.map_on fun i hi j hj => encode_injOn_wellFormed (mem_allCommands.mp hi) (mem_allCommands.mp hj)
  · simp only [List.mem_map, isLegal_iff, decode_eq_command_iff, mem_allCommands, and_comm]

/-! ## Examples (R111, R113) -/

/-- Settles O1: each entry of the table is evaluated. -/
theorem workedEncodingsDecode : Obligations.WorkedEncodingsDecode := by
  unfold Obligations.WorkedEncodingsDecode
  decide

/-- Settles O6: each line is evaluated. -/
theorem assemblerLinesGiveTheirWords : Obligations.AssemblerLinesGiveTheirWords := by
  unfold Obligations.AssemblerLinesGiveTheirWords
  decide

/-! ## Steps that fetch a command (R109, R212) -/

theorem takeEvent_command_of_decode {w : Word} {i : Instr} (h : decode w = .command i) (s : State) :
    takeEvent (.command w) s = exec i s := by
  simp [takeEvent, h]

/-- Settles O7: the step takes the move, and the move's word is decoded and run. -/
theorem stepRunsTheDecodedCommand : Obligations.StepRunsTheDecodedCommand := by
  intro s w later i hp hd
  rw [step_cons hp, takeEvent_command_of_decode hd]

theorem decode_of_decodeTableWord {w : Nat} {i : Instr} (h : decodeTableWord 16 w = some i) :
    decode (BitVec.ofNat 16 (w % 2 ^ 16)) = .command i := by
  unfold decodeTableWord at h
  split at h
  · next hw =>
    rw [Nat.mod_eq_of_lt hw.2]
    split at h
    · next hd =>
      cases h
      exact hd
    · cases h
  · cases h

/-- Settles O8: `withFetchWord` puts the word at the head of the agenda, where O7 applies. -/
theorem fetchedWordRunsNext : Obligations.FetchedWordRunsNext := by
  intro s w i h
  exact stepRunsTheDecodedCommand (s.withFetchWord 16 w) _ _ i rfl (decode_of_decodeTableWord h)

end Sys2Proof.Proofs

end

section
/-! SUPPORT and the settled statements of 40_bit_engine.md. First the sample streams along the updates, then the clock-stretch
wait, the slots of `RecvBitSeq` and `SendBitSeq` from any position, commands from their offer to idle, and the obligations. -/

namespace Sys2Proof.Proofs

open Sys2Proof.Machine Sys2Proof.Laws

/-! ## The sample streams along the updates (R37) -/

section Streams
variable (s : State)

@[simp] theorem sclAt_setUpc (u : Upc) : sclAt (setUpc u s) = sclAt s := rfl
@[simp] theorem sdaAt_setUpc (u : Upc) : sdaAt (setUpc u s) = sdaAt s := rfl
@[simp] theorem sclAt_setPollcnt (n : Nat) : sclAt (setPollcnt n s) = sclAt s := rfl
@[simp] theorem sdaAt_setPollcnt (n : Nat) : sdaAt (setPollcnt n s) = sdaAt s := rfl
@[simp] theorem sclAt_setSmp (b : Bit) : sclAt (setSmp b s) = sclAt s := rfl
@[simp] theorem sdaAt_setSmp (b : Bit) : sdaAt (setSmp b s) = sdaAt s := rfl
@[simp] theorem sclAt_setScl (v : Bit) : sclAt (setScl v s) = sclAt s := rfl
@[simp] theorem sdaAt_setScl (v : Bit) : sdaAt (setScl v s) = sdaAt s := rfl
@[simp] theorem sclAt_setSda (v : Bit) : sclAt (setSda v s) = sclAt s := rfl
@[simp] theorem sdaAt_setSda (v : Bit) : sdaAt (setSda v s) = sdaAt s := rfl
@[simp] theorem sclAt_raise (e : ErrCode) : sclAt (raise e s) = sclAt s := rfl
@[simp] theorem sdaAt_raise (e : ErrCode) : sdaAt (raise e s) = sdaAt s := rfl
@[simp] theorem sclAt_finish : sclAt (finish s) = sclAt s := rfl
@[simp] theorem sdaAt_finish : sdaAt (finish s) = sdaAt s := rfl
@[simp] theorem sclAt_drawSda : sclAt (drawSda s) = sclAt s := rfl
@[simp] theorem sdaAt_drawScl : sdaAt (drawScl s) = sdaAt s := rfl

@[simp] theorem sdaAt_dropScl (n : Nat) : sdaAt (dropScl n s) = sdaAt s := by
  rw [dropScl_eq]
  rfl

@[simp] theorem sclAt_doWork (ws : List Work) : sclAt (doWork ws s) = sclAt s := by
  have h := doWork_keepsOutside ws s
  exact sclAt_congr h.sclPeers h.sclIn h.freeStream h.freeSclUsed

@[simp] theorem sdaAt_doWork (ws : List Work) : sdaAt (doWork ws s) = sdaAt s := by
  have h := doWork_keepsOutside ws s
  exact sdaAt_congr h.sdaPeers h.sdaIn h.freeStream h.freeSdaUsed

@[simp] theorem sclAt_accept (w : Word) (sel : Option StepList) : sclAt (accept w sel s) = sclAt s := by
  cases sel <;> rfl

@[simp] theorem sdaAt_accept (w : Word) (sel : Option StepList) : sdaAt (accept w sel s) = sdaAt s := by
  cases sel <;> rfl

/-- The wire levels of the next samples, by the streams (R36). -/
theorem sclWire_eq : sclWire s = (s.sclOut && sclAt s 0) := by rw [sclAt_zero]; rfl

theorem sdaWire_eq : sdaWire s = (s.sdaOut && sdaAt s 0) := by rw [sdaAt_zero]; rfl

theorem dropScl_last (n : Nat) : dropScl (n + 1) s = drawScl (dropScl n s) := by
  induction n generalizing s with
  | zero => rfl
  | succ n ih => rw [dropScl, ih, dropScl]

end Streams

/-! ## What an engine step does, by its token (R45, R133) -/

section EntryStreams
variable {st : MicroStep} (rest : StepList) (s : State)

@[simp] theorem atPrimitive_smp : (atPrimitive st rest s).smp = s.smp := by simp [atPrimitive]
@[simp] theorem atPrimitive_rst : (atPrimitive st rest s).rst = s.rst := by simp [atPrimitive]
@[simp] theorem sclAt_atPrimitive : sclAt (atPrimitive st rest s) = sclAt s := by simp [atPrimitive]
@[simp] theorem sdaAt_atPrimitive : sdaAt (atPrimitive st rest s) = sdaAt s := by simp [atPrimitive]
@[simp] theorem sclEnv_atPrimitive : sclEnv (atPrimitive st rest s) = sclEnv s := by simp [← sclAt_zero]
@[simp] theorem sdaEnv_atPrimitive : sdaEnv (atPrimitive st rest s) = sdaEnv s := by simp [← sdaAt_zero]
@[simp] theorem sclWire_atPrimitive : sclWire (atPrimitive st rest s) = sclWire s := by simp [sclWire]
@[simp] theorem sdaWire_atPrimitive : sdaWire (atPrimitive st rest s) = sdaWire s := by simp [sdaWire]

@[simp] theorem value_atPrimitive (v : BitSrc) : v.value (atPrimitive st rest s) = v.value (doWork st.before s) :=
  value_congr v (by simp) rfl rfl

end EntryStreams

section Tokens
variable {s : State} {st : MicroStep} {rest : StepList} (hr : s.rst = false) (hu : s.upc = .run st rest)
include hr hu

theorem nextToken_settle (h : st.prim = .settle) : nextToken s = some .s := by
  simp [nextToken_run hr hu, h]

theorem nextToken_pollScl (h : st.prim = .pollScl) : nextToken s = some (.p (sclWire s)) := by
  simp [nextToken_run hr hu, h]

theorem nextToken_readSda (h : st.prim = .readSda) : nextToken s = some (.r (sdaWire s)) := by
  simp [nextToken_run hr hu, h]

end Tokens

theorem nextToken_fin {s : State} (hr : s.rst = false) (hu : s.upc = .fin) : nextToken s = some .f := by
  simp [nextToken, hr, hu]

theorem nextToken_of_held_or_idle {s : State} (h : s.rst = true ∨ s.upc = .idle) : nextToken s = none := by
  rcases h with h | h <;> simp [nextToken, h]

/-- A sample of a wait takes one contribution to SCL and none to SDA, and writes no line and not SMP (R133). -/
theorem pollScl_sample (st : MicroStep) (rest : StepList) (s : State) :
    (∀ k, sclAt (pollScl st rest s) k = sclAt s (k + 1)) ∧ sdaAt (pollScl st rest s) = sdaAt s
      ∧ (pollScl st rest s).smp = s.smp ∧ (pollScl st rest s).status = s.status := by
  rcases pollScl_cases st rest s with ⟨-, h⟩ | ⟨-, -, h⟩ | ⟨-, -, h⟩ <;> simp [h]

/-! ## The clock-stretch wait (R134, R135) -/

/-- A wait's samples: all that come before the first high one read low. -/
theorem waitSamples_cases (f : Nat → Bit) (a n : Nat) :
    (∃ j, waitSamples f a n = some (j + 1) ∧ j < n ∧ f (a + j) = true ∧ ∀ i, i < j → f (a + i) = false) ∨
    (waitSamples f a n = none ∧ ∀ i, i < n → f (a + i) = false) := by
  induction n generalizing a with
  | zero => exact .inr ⟨rfl, by simp⟩
  | succ n ih =>
    cases hf : f a with
    | true => exact .inl ⟨0, by simp [waitSamples, hf], n.succ_pos, hf, by simp⟩
    | false =>
      have hlow : ∀ {m}, (∀ i, i < m → f (a + 1 + i) = false) → ∀ i, i < m + 1 → f (a + i) = false := by
        intro m h i hi
        cases i with
        | zero => exact hf
        | succ i => rw [Nat.add_comm i 1, ← Nat.add_assoc]; exact h i (by omega)
      rcases ih (a + 1) with ⟨j, hw, hj, hhigh, hall⟩ | ⟨hw, hall⟩
      · exact .inl ⟨j + 1, by simp [waitSamples, hf, hw], by omega, by rw [← hhigh]; congr 1; omega, hlow hall⟩
      · exact .inr ⟨by simp [waitSamples, hf, hw], hlow hall⟩

/-- The SCL wire level at the k-th coming sample, SCL_OUT staying as it is (R36). -/
def sclWireAt (s : State) (k : Nat) : Bit := s.sclOut && sclAt s k

theorem sclWireAt_of_released {s : State} (h : s.sclOut = true) : sclWireAt s = sclAt s := by
  funext k
  simp [sclWireAt, h]

/-- After `m` samples of a wait begun in `s`, the position moved on past it. -/
def sampled (m : Nat) (rest : StepList) (s : State) : State := setUpc (Upc.ofList rest) (setPollcnt m (dropScl m s))

theorem sampled_succ (m : Nat) (rest : StepList) (s : State) :
    drawScl (setPollcnt (m + 1) (sampled m rest s)) = sampled (m + 1) rest s := by
  rw [sampled, sampled, dropScl_last]
  rfl

/-- `t` is at the sample after `m` low ones of a wait begun in `s`. -/
structure AtSample (s : State) (rest : StepList) (m : Nat) (t : State) : Prop where
  rst : t.rst = false
  now : ∃ now, t.upc = .run now rest ∧ now.prim = .pollScl ∧ now.after = [] ∧ atPrimitive now rest t = sampled m rest s

theorem atSample_zero {s : State} {rest : StepList} (hr : s.rst = false) (hu : s.upc = .run waitSclHigh rest) :
    AtSample s rest 0 s := ⟨hr, waitSclHigh, hu, rfl, rfl, rfl⟩

/-- The sample after `m` low ones: high, it ends the wait; low, the wait goes on or times out. -/
theorem AtSample.step {s t : State} {rest : StepList} {m : Nat} (h : AtSample s rest m t) :
    nextToken t = some (.p (sclWireAt s m)) ∧
    ((sclWireAt s m = true ∧ engineStep t = sampled (m + 1) rest s) ∨
     (sclWireAt s m = false ∧ m + 1 < s.nPoll ∧ AtSample s rest (m + 1) (engineStep t)) ∨
     (sclWireAt s m = false ∧ s.nPoll ≤ m + 1 ∧ engineStep t = raise .stretchTimeout (sampled (m + 1) rest s))) := by
  obtain ⟨now, hu, hprim, hafter, hat⟩ := h.now
  have hwire : sclWire (sampled m rest s) = sclWireAt s m := by
    rw [sclWire_eq, sampled, sclAt_setUpc, sclAt_setPollcnt, sclAt_dropScl, dropScl_eq]
    rfl
  obtain ⟨hcnt, hmax⟩ : (sampled m rest s).pollcnt = m ∧ (sampled m rest s).nPoll = s.nPoll := by
    rw [sampled, dropScl_eq]
    exact ⟨rfl, rfl⟩
  have hstep : engineStep t = pollScl now rest (sampled m rest s) := by
    rw [engineStep_run h.rst hu, microStep_pollScl rest t hprim, hat]
  refine ⟨by rw [nextToken_pollScl h.rst hu hprim, ← hwire, ← hat, sclWire_atPrimitive], ?_⟩
  have hcases := pollScl_cases now rest (sampled m rest s)
  rw [← hstep, hwire, hcnt, hmax, sampled_succ] at hcases
  rcases hcases with ⟨hl, heq⟩ | ⟨hl, hm, heq⟩ | ⟨hl, hm, heq⟩
  · exact .inl ⟨hl, by rw [heq, hafter, doWork_nil]⟩
  · refine .inr (.inl ⟨hl, hm, by rw [engineStep_rst, h.rst], { now with before := [] }, ?_, hprim, hafter, ?_⟩)
    · rw [heq, setUpc_upc]
    · rw [heq]
      rfl
  · exact .inr (.inr ⟨hl, hm, heq⟩)

section Wait
variable {s : State} {rest : StepList} (hr : s.rst = false) (hu : s.upc = .run waitSclHigh rest)
include hr hu

/-- Low samples, fewer than `N_POLL`, leave the Engine at the next sample. -/
theorem steps_wait_low {m : Nat} (hm : m < s.nPoll) (hlow : ∀ i, i < m → sclWireAt s i = false) :
    ∃ t, Steps (List.replicate m (.p false)) s t ∧ AtSample s rest m t := by
  induction m with
  | zero => exact ⟨s, .nil s, atSample_zero hr hu⟩
  | succ m ih =>
    obtain ⟨t, hsteps, hat⟩ := ih (by omega) fun i hi => hlow i (by omega)
    obtain ⟨htok, hcases⟩ := hat.step
    rw [hlow m (by omega)] at htok hcases
    obtain ⟨hhigh, -⟩ | ⟨-, -, hnext⟩ | ⟨-, hle, -⟩ := hcases
    · cases hhigh
    · exact ⟨_, by rw [List.replicate_succ']; exact hsteps.append (.one htok), hnext⟩
    · omega

/-- A wait that succeeds at its k-th sample goes on to the next entry. -/
theorem steps_wait_some {k : Nat} (hw : waitSamples (sclWireAt s) 0 s.nPoll = some k) :
    Steps (waitTrace s.nPoll (some k)) s (sampled k rest s) := by
  rcases waitSamples_cases (sclWireAt s) 0 s.nPoll with ⟨j, hj, hlt, hhigh, hlow⟩ | ⟨hnone, -⟩
  · obtain rfl := Option.some.inj (hj.symm.trans hw)
    simp only [Nat.zero_add] at hhigh hlow
    obtain ⟨t, hsteps, hat⟩ := steps_wait_low hr hu hlt hlow
    obtain ⟨htok, hcases⟩ := hat.step
    rw [hhigh] at htok hcases
    obtain ⟨-, heq⟩ | ⟨h, -⟩ | ⟨h, -⟩ := hcases
    · exact heq ▸ hsteps.append (.one htok)
    · cases h
    · cases h
  · cases hnone.symm.trans hw

/-- A wait that times out goes to Finish with its error (R135). -/
theorem steps_wait_none (hn : 1 ≤ s.nPoll) (hw : waitSamples (sclWireAt s) 0 s.nPoll = none) :
    Steps (waitTrace s.nPoll none) s (raise .stretchTimeout (sampled s.nPoll rest s)) := by
  rcases waitSamples_cases (sclWireAt s) 0 s.nPoll with ⟨j, hj, -⟩ | ⟨-, hlow⟩
  · cases hj.symm.trans hw
  · simp only [Nat.zero_add] at hlow
    obtain ⟨m, hm⟩ : ∃ m, s.nPoll = m + 1 := Nat.exists_eq_add_of_le' hn
    obtain ⟨t, hsteps, hat⟩ := steps_wait_low hr hu (m := m) (by omega) fun i hi => hlow i (by omega)
    obtain ⟨htok, hcases⟩ := hat.step
    rw [hlow m (by omega)] at htok hcases
    obtain ⟨h, -⟩ | ⟨-, hlt, -⟩ | ⟨-, -, heq⟩ := hcases
    · cases h
    · omega
    · rw [waitTrace, hm, List.replicate_succ', ← heq]
      exact hsteps.append (.one htok)

/-- Until a wait is over the Engine is at one of its samples. -/
theorem at_wait_of_low {m : Nat} (hm : m < s.nPoll) (hlow : ∀ i, i < m → sclWireAt s i = false) :
    ∃ now, (engineRun m s).upc = .run now rest ∧ now.prim = .pollScl := by
  obtain ⟨t, hsteps, hat⟩ := steps_wait_low hr hu hm hlow
  obtain ⟨now, hnow, hprim, -⟩ := hat.now
  have hrun := hsteps.run
  rw [List.length_replicate] at hrun
  exact ⟨now, hrun ▸ hnow, hprim⟩

end Wait

/-! ## Entries of a step list that do one primitive -/

/-- An engine step at an entry, given its token and what it does. -/
theorem steps_entry {s t : State} {st : MicroStep} {rest : StepList} {tok : Token} (hr : s.rst = false)
    (htok : nextToken (setUpc (Upc.ofList (st :: rest)) s) = some tok)
    (hstep : microStep st rest (setUpc (Upc.ofList (st :: rest)) s) = t) :
    Steps [tok] (setUpc (Upc.ofList (st :: rest)) s) t := by
  rw [← hstep, ← engineStep_run (s := setUpc (Upc.ofList (st :: rest)) s) hr rfl]
  exact .one htok

section OnePrimitive
variable (s : State) {ws : List Work} {rest : StepList} (hr : s.rst = false)
include hr

theorem steps_setScl (v : Bit) :
    Steps [.c v] (setUpc (Upc.ofList (opThen (.setScl v) ws :: rest)) s)
      (doWork ws (setUpc (Upc.ofList rest) (setScl v s))) :=
  steps_entry hr (nextToken_setScl (by exact hr) rfl rfl) (microStep_setScl _ _ rfl)

theorem steps_setSda (v : BitSrc) :
    Steps [.d (v.value s)] (setUpc (Upc.ofList (opThen (.setSda v) ws :: rest)) s)
      (doWork ws (setUpc (Upc.ofList rest) (setSda (v.value s) s))) := by
  have hv : ∀ u, v.value (setUpc u s) = v.value s := fun u => value_congr v rfl rfl rfl
  refine steps_entry hr ((nextToken_setSda (by exact hr) rfl rfl).trans ?_) ((microStep_setSda _ _ rfl).trans ?_)
  · exact congrArg (some ∘ Token.d) (hv _)
  · rw [value_atPrimitive]
    exact congrArg (fun b => doWork ws (setUpc (Upc.ofList rest) (setSda b s))) (hv _)

theorem steps_settle :
    Steps [.s] (setUpc (Upc.ofList (opThen .settle ws :: rest)) s) (doWork ws (setUpc (Upc.ofList rest) s)) :=
  steps_entry hr (nextToken_settle hr rfl rfl) (microStep_settle _ _ rfl)

theorem steps_readSda :
    Steps [.r (sdaWire s)] (setUpc (Upc.ofList (opThen .readSda ws :: rest)) s)
      (doWork ws (setUpc (Upc.ofList rest) (readSda s))) :=
  steps_entry hr (nextToken_readSda hr rfl rfl) (microStep_readSda _ _ rfl)

theorem steps_finish (hu : s.upc = .fin) : Steps [.f] s (finish s) := by
  rw [← engineStep_fin hr hu]
  exact .one (nextToken_fin hr hu)

end OnePrimitive

/-! ## The slots: `RecvBitSeq` and `SendBitSeq` from any position (R137, R138) -/

/-- A slot at its wait: SDA at `v`, then SCL released. -/
def clockedHigh (v : Bit) (s : State) : State := setScl true (setSda v s)

/-- A slot with SDA at `v` done after a wait of `k` samples, the arbitration checker having found `lost`. -/
def slotDone (v lost : Bit) (k : Nat) (s : State) : State :=
  { s with
    sclOut := false, sdaOut := v, pollcnt := k, smp := v && sdaAt s 0, arbAcc := s.arbAcc || lost
    sclIn := s.sclIn.drop k, freeSclUsed := s.freeSclUsed + (k - s.sclIn.length)
    sdaIn := s.sdaIn.tail, freeSdaUsed := if s.sdaIn.isEmpty then s.freeSdaUsed + 1 else s.freeSdaUsed }

/-- A slot with SDA at `v` whose wait has timed out: the lines stay as they are (R135). -/
def slotLate (v : Bit) (s : State) : State :=
  { s with
    sclOut := true, sdaOut := v, pollcnt := s.nPoll, resErr := 2#3, upc := .fin
    sclIn := s.sclIn.drop s.nPoll, freeSclUsed := s.freeSclUsed + (s.nPoll - s.sclIn.length) }

theorem sdaAt_slotDone (v lost : Bit) (k : Nat) (s : State) (j : Nat) : sdaAt (slotDone v lost k s) j = sdaAt s (j + 1) := by
  rw [← sdaAt_drawSda]
  rfl

theorem waitSamples_clockedHigh (v : Bit) (u : Upc) (s : State) :
    waitSamples (sclWireAt (setUpc u (clockedHigh v s))) 0 s.nPoll = waitSamples (sclAt s) 0 s.nPoll := by
  rw [sclWireAt_of_released rfl]
  rfl

/-- The arbitration checker in one equation (R140). -/
theorem checkArb_eq (v : BitSrc) (s : State) :
    (Work.checkArb v).apply s = { s with arbAcc := s.arbAcc || (v.value s && !s.smp) } := by
  simp only [Work.apply]
  cases hlost : v.value s && !s.smp <;> simp

/-- A slot with SDA at `v` whose wait has taken `k` samples. -/
def waited (v : Bit) (k : Nat) (s : State) : State := setPollcnt k (dropScl k (clockedHigh v s))

theorem waited_rst (v : Bit) (k : Nat) (s : State) : (waited v k s).rst = s.rst := by
  rw [waited, dropScl_eq]
  rfl

theorem value_waited (src : BitSrc) (u : Upc) (v : Bit) (k : Nat) (s : State) :
    src.value (setUpc u (readSda (waited v k s))) = src.value s := by
  rw [waited, dropScl_eq]
  exact value_congr src rfl rfl rfl

/-- What a slot samples on SDA after its wait (R36). -/
theorem sdaWire_waited (v : Bit) (k : Nat) (s : State) : sdaWire (waited v k s) = (v && sdaAt s 0) := by
  rw [sdaWire_eq, waited, sdaAt_setPollcnt, sdaAt_dropScl, dropScl_eq]
  rfl

/-- A slot with its SDA sample taken and checked. -/
def slotSampled (v lost : Bit) (k : Nat) (s : State) : State :=
  { readSda (waited v k s) with arbAcc := s.arbAcc || lost }

theorem setScl_slotSampled (v lost : Bit) (k : Nat) (s : State) :
    setScl false (slotSampled v lost k s) = slotDone v lost k s := by
  rw [slotSampled, readSda_eq, sdaWire_waited, waited, dropScl_eq]
  rfl

section Slot
variable {s : State} {rest : StepList} {k : Nat} (hr : s.rst = false)
include hr

/-- The samples of a slot's wait, when it succeeds. -/
theorem steps_slot_wait (v : Bit) (hw : waitSamples (sclAt s) 0 s.nPoll = some k) :
    Steps (waitTrace s.nPoll (some k)) (setUpc (Upc.ofList (waitSclHigh :: rest)) (clockedHigh v s))
      (setUpc (Upc.ofList rest) (waited v k s)) := by
  have h := steps_wait_some (s := setUpc (Upc.ofList (waitSclHigh :: rest)) (clockedHigh v s)) hr rfl
    ((waitSamples_clockedHigh ..).trans hw)
  rw [sampled, dropScl_eq] at h
  rw [waited, dropScl_eq]
  exact h

/-- The samples of a slot's wait, when it times out. -/
theorem steps_slot_timeout (v : Bit) (hn : 1 ≤ s.nPoll) (hw : waitSamples (sclAt s) 0 s.nPoll = none) :
    Steps (waitTrace s.nPoll none) (setUpc (Upc.ofList (waitSclHigh :: rest)) (clockedHigh v s)) (slotLate v s) := by
  have h := steps_wait_none (s := setUpc (Upc.ofList (waitSclHigh :: rest)) (clockedHigh v s)) hr rfl hn
    ((waitSamples_clockedHigh ..).trans hw)
  rw [sampled, dropScl_eq] at h
  exact h

/-- A slot from its SDA sample on, what is done with the sample (`chk`) being no more than the arbitration check. -/
theorem steps_slot_tail {v lost : Bit} {chk ws : List Work}
    (hchk : ∀ u, doWork chk (setUpc u (readSda (waited v k s))) = setUpc u (slotSampled v lost k s)) :
    Steps [.r (v && sdaAt s 0), .s, .c false]
      (setUpc (Upc.ofList (opThen .readSda chk :: op .settle :: opThen (.setScl false) ws :: rest)) (waited v k s))
      (doWork ws (setUpc (Upc.ofList rest) (slotDone v lost k s))) := by
  have hw : (waited v k s).rst = false := (waited_rst v k s).trans hr
  have sample := steps_readSda (waited v k s) (ws := chk) (rest := op .settle :: opThen (.setScl false) ws :: rest) hw
  rw [hchk, sdaWire_waited] at sample
  rw [← setScl_slotSampled]
  exact sample.append ((steps_settle (slotSampled v lost k s) hw).append (steps_setScl (slotSampled v lost k s) hw false))

/-- `RecvBitSeq()` up to its wait. -/
theorem steps_recv_head (ret : List Work) :
    Steps [.d true, .s, .c true] (setUpc (Upc.ofList (recvBitSeq ret ++ rest)) s)
      (setUpc (Upc.ofList (waitSclHigh :: op .readSda :: op .settle :: opThen (.setScl false) ret :: rest))
        (clockedHigh true s)) :=
  (steps_setSda s hr (.const true)).append
    ((steps_settle (setSda true s) hr).append (steps_setScl (setSda true s) hr true))

/-- `SendBitSeq(src)` up to its wait. -/
theorem steps_send_head (src : BitSrc) (done : List Work) :
    Steps [.d (src.value s), .c true] (setUpc (Upc.ofList (sendBitSeq src done ++ rest)) s)
      (setUpc (Upc.ofList (waitSclHigh :: opThen .readSda [.checkArb src] :: op .settle :: opThen (.setScl false) done :: rest))
        (clockedHigh (src.value s) s)) :=
  (steps_setSda s hr src).append (steps_setScl (setSda (src.value s) s) hr true)

/-- `RecvBitSeq()` when its wait takes `k` samples. -/
theorem steps_recvBitSeq (ret : List Work) (hw : waitSamples (sclAt s) 0 s.nPoll = some k) :
    Steps (recvSlot s.nPoll k (sdaAt s 0)) (setUpc (Upc.ofList (recvBitSeq ret ++ rest)) s)
      (doWork ret (setUpc (Upc.ofList rest) (slotDone true false k s))) := by
  refine ((steps_recv_head hr ret).append (steps_slot_wait hr true hw)).append
    (steps_slot_tail (v := true) (chk := []) (lost := false) hr fun u => ?_)
  rw [slotSampled, waited, dropScl_eq, Bool.or_false]
  rfl

/-- `RecvBitSeq()` when its wait times out. -/
theorem steps_recvBitSeq_late (ret : List Work) (hn : 1 ≤ s.nPoll) (hw : waitSamples (sclAt s) 0 s.nPoll = none) :
    Steps (recvSlotLate s.nPoll) (setUpc (Upc.ofList (recvBitSeq ret ++ rest)) s) (slotLate true s) :=
  (steps_recv_head hr ret).append (steps_slot_timeout hr true hn hw)

/-- `SendBitSeq(src)` when its wait takes `k` samples: the check is for a bit sent as 1 and read back as 0 (R140). -/
theorem steps_sendBitSeq (src : BitSrc) (done : List Work) (hw : waitSamples (sclAt s) 0 s.nPoll = some k) :
    Steps (sendSlot s.nPoll k (src.value s) (src.value s && sdaAt s 0)) (setUpc (Upc.ofList (sendBitSeq src done ++ rest)) s)
      (doWork done (setUpc (Upc.ofList rest) (slotDone (src.value s) (src.value s && !sdaAt s 0) k s))) := by
  refine ((steps_send_head hr src done).append (steps_slot_wait hr (src.value s) hw)).append (steps_slot_tail hr fun u => ?_)
  have hsmp : (src.value s && !(src.value s && sdaAt s 0)) = (src.value s && !sdaAt s 0) := by
    cases src.value s <;> rfl
  rw [doWork_cons, doWork_nil, checkArb_eq, value_waited, readSda_eq, sdaWire_waited, setUpc_smp, setSmp_smp, hsmp,
    slotSampled, readSda_eq, sdaWire_waited, waited, dropScl_eq]
  rfl

/-- `SendBitSeq(src)` when its wait times out. -/
theorem steps_sendBitSeq_late (src : BitSrc) (done : List Work) (hn : 1 ≤ s.nPoll)
    (hw : waitSamples (sclAt s) 0 s.nPoll = none) :
    Steps (sendSlotLate s.nPoll (src.value s)) (setUpc (Upc.ofList (sendBitSeq src done ++ rest)) s)
      (slotLate (src.value s) s) :=
  (steps_send_head hr src done).append (steps_slot_timeout hr (src.value s) hn hw)

end Slot

/-! ## Commands from their offer to idle (R46, R47) -/

/-- No trace is longer than the engine steps that may be left. -/
theorem length_trace_le (n : Nat) (s : State) : (trace n s).length ≤ remainingSteps s := by
  induction n generalizing s with
  | zero => exact Nat.zero_le _
  | succ n ih =>
    by_cases hidle : s.rst = true ∨ s.upc = .idle
    · simp [trace, nextToken_of_held_or_idle hidle]
    · obtain ⟨hr, hu⟩ : s.rst = false ∧ s.upc ≠ .idle := by simpa using hidle
      have hlt := remainingSteps_engineStep_lt hr hu
      have hle := ih (engineStep s)
      rw [trace]
      split
      · exact Nat.zero_le _
      · rw [List.length_cons]
        omega

/-- Steps that end idle are the whole run. -/
theorem toIdle_of_steps {tr : List Token} {s t : State} (h : Steps tr s t) (hi : t.upc = .idle) :
    traceToIdle s = tr ∧ runToIdle s = t := by
  have htrace : trace tr.length s = tr := by simpa [trace] using h.trace_eq 0
  have hle := length_trace_le tr.length s
  rw [htrace] at hle
  exact h.toIdle hi (hle.trans (remainingSteps_le_cost s))

/-- The meaning of every command: its word offered, and the Engine run until it is idle (R212). -/
theorem exec_eq_runToIdle (i : Instr) (s : State) : exec i s = .next (runToIdle (offerWord (encode i) s)) := by
  rw [exec_eq_runCommand, ← selectedBy_encode]
  rfl

theorem offerWord_encode {s : State} (h : Ready s) (i : Instr) :
    offerWord (encode i) s = accept (encode i) (some (stepListOf i)) s := by
  obtain ⟨hr, hb, -⟩ := h
  rw [offerWord_ready _ hr hb, selectedBy_encode]

/-- A command whose steps, from its first one, lead to Finish. -/
theorem command_of_steps {i : Instr} {s t : State} {tr : List Token} (h : Ready s)
    (hsteps : Steps tr (accept (encode i) (some (stepListOf i)) s) t) (hu : t.upc = .fin) :
    traceToIdle (offerWord (encode i) s) = tr ++ [.f] ∧ exec i s = .next (finish t) := by
  have ⟨hr, _, _⟩ := h
  have hrst : t.rst = false := by rw [← hsteps.run, engineRun_rst, accept_rst, hr]
  obtain ⟨htrace, hrun⟩ := toIdle_of_steps (hsteps.append (steps_finish t hrst hu)) rfl
  rw [exec_eq_runToIdle, offerWord_encode h i]
  exact ⟨htrace, congrArg Host.Outcome.next hrun⟩

theorem encode_expand (i : Instr) : encode i.expand = encode i := by
  cases i <;> rfl

/-- Every command runs as what it stands for (R112, R141, R142, R143). -/
theorem exec_expand (i : Instr) (s : State) : exec i s = exec i.expand s := by
  rw [exec_eq_runCommand, exec_eq_runCommand, encode_expand, stepListOf_expand]

theorem completes_expand {i : Instr} {s : State} {w : Word} {err : BitVec 3} {arbLost bit : Bit} {rxdata : Byte}
    {sclOut sdaOut : Bit} :
    Completes i s w err arbLost bit rxdata sclOut sdaOut ↔ Completes i.expand s w err arbLost bit rxdata sclOut sdaOut := by
  rw [Completes, exec_expand, Completes]

/-! ## The bit commands (R137, R139) -/

theorem encode_sendBit (b : Bit) : encode (.sendBit b) = if b then 0x0102#16 else 0x0002#16 := by
  cases b <;> rfl

section BitCommands
variable {s : State} (h : Ready s)
include h

/-- RECV_BIT when its wait takes `k` samples. -/
theorem recvBit_done {k : Nat} (hw : waitSamples (sclAt s) 0 s.nPoll = some k) :
    traceToIdle (offerWord (encode .recvBit) s) = recvSlot s.nPoll k (sdaAt s 0) ++ [.f]
      ∧ exec .recvBit s = .next (finish (doWork [.returnBit]
          (setUpc .fin (slotDone true false k (accept (encode .recvBit) (some recvBitList) s))))) := by
  have ⟨hr, _, _⟩ := h
  exact command_of_steps h (steps_recvBitSeq (s := accept (encode .recvBit) (some recvBitList) s) hr [.returnBit] hw) rfl

/-- RECV_BIT when its wait times out. -/
theorem recvBit_late (hw : waitSamples (sclAt s) 0 s.nPoll = none) :
    traceToIdle (offerWord (encode .recvBit) s) = recvSlotLate s.nPoll ++ [.f]
      ∧ exec .recvBit s = .next (finish (slotLate true (accept (encode .recvBit) (some recvBitList) s))) := by
  have ⟨hr, _, hn⟩ := h
  exact command_of_steps h
    (steps_recvBitSeq_late (s := accept (encode .recvBit) (some recvBitList) s) (rest := []) hr [.returnBit] hn hw) rfl

/-- SEND_BIT when its wait takes `k` samples. -/
theorem sendBit_done (b : Bit) {k : Nat} (hw : waitSamples (sclAt s) 0 s.nPoll = some k) :
    traceToIdle (offerWord (encode (.sendBit b)) s) = sendSlot s.nPoll k b (b && sdaAt s 0) ++ [.f]
      ∧ exec (.sendBit b) s = .next (finish
          (setUpc .fin (slotDone b (b && !sdaAt s 0) k (accept (encode (.sendBit b)) (some sendBitList) s)))) := by
  have ⟨hr, _, _⟩ := h
  have hb : BitSrc.cmdB.value (accept (encode (.sendBit b)) (some sendBitList) s) = b := bField_encode_sendBit b
  have hsteps := steps_sendBitSeq (s := accept (encode (.sendBit b)) (some sendBitList) s) (rest := []) hr .cmdB [] hw
  rw [hb] at hsteps
  exact command_of_steps h hsteps rfl

/-- SEND_BIT when its wait times out. -/
theorem sendBit_late (b : Bit) (hw : waitSamples (sclAt s) 0 s.nPoll = none) :
    traceToIdle (offerWord (encode (.sendBit b)) s) = sendSlotLate s.nPoll b ++ [.f]
      ∧ exec (.sendBit b) s = .next (finish (slotLate b (accept (encode (.sendBit b)) (some sendBitList) s))) := by
  have ⟨hr, _, hn⟩ := h
  have hb : BitSrc.cmdB.value (accept (encode (.sendBit b)) (some sendBitList) s) = b := bField_encode_sendBit b
  have hsteps := steps_sendBitSeq_late (s := accept (encode (.sendBit b)) (some sendBitList) s) (rest := []) hr .cmdB []
    hn hw
  rw [hb] at hsteps
  exact command_of_steps h hsteps rfl

end BitCommands

/-! ## Timeouts (R135, R244) -/

/-- Every wait of a step list comes with SCL released, when the list begins with SCL_OUT at the level given. -/
def waitsReleased : Bit → StepList → Bool
  | _, [] => true
  | scl, st :: rest =>
    match st.prim with
    | .setScl v => waitsReleased v rest
    | .pollScl => scl && waitsReleased scl rest
    | .setSda _ | .settle | .readSda => waitsReleased scl rest

theorem stepLists_waitsReleased : ∀ l ∈ stepLists, ∀ scl, waitsReleased scl l = true := by decide

/-- A command in progress comes to its waits with SCL released and has not timed out yet; once it has, SCL is released and BIT
will be 0. -/
def ReleasedAtTimeout (s : State) : Prop :=
  match s.upc with
  | .run st rest => waitsReleased s.sclOut (st :: rest) = true ∧ s.resErr ≠ 2#3
  | .fin => s.resErr = 2#3 → s.sclOut = true
  | .idle => s.status.err = 2#3 → s.sclOut = true ∧ s.status.bit = false

theorem releasedAtTimeout_ofList {s : State} {l : StepList} (hu : s.upc = Upc.ofList l)
    (hl : waitsReleased s.sclOut l = true) (he : s.resErr ≠ 2#3) : ReleasedAtTimeout s := by
  unfold ReleasedAtTimeout
  rw [hu]
  cases l with
  | nil => exact fun h => absurd h he
  | cons st rest => exact ⟨hl, he⟩

theorem releasedAtTimeout_fin {s : State} (hu : s.upc = .fin) (h : s.resErr = 2#3 → s.sclOut = true) :
    ReleasedAtTimeout s := by
  unfold ReleasedAtTimeout
  rw [hu]
  exact h

theorem doWork_resErr_ne {s : State} (he : s.resErr ≠ 2#3) (ws : List Work) : (doWork ws s).resErr ≠ 2#3 := by
  rcases doWork_upc_cases ws s with ⟨-, h⟩ | ⟨-, h⟩ <;> rw [h]
  · exact he
  · decide

/-- The work after a primitive raises no timeout. -/
theorem releasedAtTimeout_doWork {s : State} {rest : StepList} (ws : List Work) (hu : s.upc = Upc.ofList rest)
    (hl : waitsReleased s.sclOut rest = true) (he : s.resErr ≠ 2#3) : ReleasedAtTimeout (doWork ws s) := by
  have he' := doWork_resErr_ne he ws
  rcases doWork_upc_cases ws s with ⟨hu', -⟩ | ⟨hu', -⟩
  · exact releasedAtTimeout_ofList (hu'.trans hu) (by simpa using hl) he'
  · exact releasedAtTimeout_fin hu' fun h => absurd h he'

theorem releasedAtTimeout_microStep {s : State} {st : MicroStep} {rest : StepList}
    (hl : waitsReleased s.sclOut (st :: rest) = true) (he : s.resErr ≠ 2#3) :
    ReleasedAtTimeout (microStep st rest s) := by
  have he' : (atPrimitive st rest s).resErr ≠ 2#3 := doWork_resErr_ne he st.before
  cases hprim : st.prim with
  | setScl v =>
    rw [microStep_setScl rest s hprim]
    exact releasedAtTimeout_doWork st.after rfl (by simpa [waitsReleased, hprim] using hl) he'
  | setSda v =>
    rw [microStep_setSda rest s hprim]
    exact releasedAtTimeout_doWork st.after rfl (by simpa [waitsReleased, hprim] using hl) he'
  | settle =>
    rw [microStep_settle rest s hprim]
    exact releasedAtTimeout_doWork st.after rfl (by simpa [waitsReleased, hprim] using hl) he'
  | readSda =>
    rw [microStep_readSda rest s hprim]
    exact releasedAtTimeout_doWork st.after rfl (by simpa [waitsReleased, hprim] using hl) he'
  | pollScl =>
    obtain ⟨hscl, hrest⟩ : s.sclOut = true ∧ waitsReleased s.sclOut rest = true := by simpa [waitsReleased, hprim] using hl
    rw [microStep_pollScl rest s hprim]
    rcases pollScl_cases st rest (atPrimitive st rest s) with ⟨-, h⟩ | ⟨-, -, h⟩ | ⟨-, -, h⟩ <;> rw [h]
    · exact releasedAtTimeout_doWork st.after rfl (by simpa using hrest) he'
    · exact releasedAtTimeout_ofList (l := { st with before := [] } :: rest) rfl
        (by simpa [waitsReleased, hprim] using ⟨hscl, hrest⟩) he'
    · exact releasedAtTimeout_fin rfl fun _ => by simpa using hscl

theorem releasedAtTimeout_finish {s : State} (h : s.resErr = 2#3 → s.sclOut = true) : ReleasedAtTimeout (finish s) := by
  intro he
  replace he : s.resErr = 2#3 := he
  exact ⟨h he, by simp [Status.finished, he]⟩

theorem releasedAtTimeout_engineStep {s : State} (h : ReleasedAtTimeout s) : ReleasedAtTimeout (engineStep s) := by
  rcases engineStep_cases s with ⟨-, heq⟩ | ⟨-, hu, heq⟩ | ⟨st, rest, -, hu, heq⟩ <;> rw [heq]
  · exact h
  · rw [ReleasedAtTimeout, hu] at h
    exact releasedAtTimeout_finish h
  · rw [ReleasedAtTimeout, hu] at h
    obtain ⟨hl, he⟩ := h
    exact releasedAtTimeout_microStep hl he

theorem releasedAtTimeout_engineRun (n : Nat) {s : State} (h : ReleasedAtTimeout s) : ReleasedAtTimeout (engineRun n s) := by
  induction n generalizing s with
  | zero => exact h
  | succ n ih => exact ih (releasedAtTimeout_engineStep h)

/-! ## The obligations of 40_bit_engine.md -/

/-- Settles O9: by the primitive of the entry the Engine is at. -/
theorem engineStepDoesOnePrimitive : Obligations.EngineStepDoesOnePrimitive := by
  intro s
  rcases engineStep_cases s with ⟨hidle, heq⟩ | ⟨hr, hu, heq⟩ | ⟨st, rest, hr, hu, heq⟩
  · simp [nextToken_of_held_or_idle hidle, heq]
  · simp [nextToken_fin hr hu, heq]
  · cases hprim : st.prim with
    | setScl v => simp [nextToken_setScl hr hu hprim, heq, microStep_setScl rest s hprim]
    | setSda v => simp [nextToken_setSda hr hu hprim, heq, microStep_setSda rest s hprim]
    | settle => simp [nextToken_settle hr hu hprim, heq, microStep_settle rest s hprim]
    | readSda => simp [nextToken_readSda hr hu hprim, heq, microStep_readSda rest s hprim, sdaWire]
    | pollScl =>
      obtain ⟨hscl, hsda, hsmp, hstatus⟩ := pollScl_sample st rest (atPrimitive st rest s)
      simp [nextToken_pollScl hr hu hprim, heq, microStep_pollScl rest s hprim, pollScl_lines, hscl, hsda, hsmp, hstatus, sclWire]

/-- Settles O12: the samples before the first high one are low, and each low one leads to the next. -/
theorem clockStretchWaitIsBounded : Obligations.ClockStretchWaitIsBounded := by
  intro s rest hr hn hu
  rcases waitSamples_cases (fun k => s.sclOut && sclAt s k) 0 s.nPoll with ⟨j, hw, hlt, -, hlow⟩ | ⟨hw, hlow⟩
  · have hrun : engineRun (j + 1) s = sampled (j + 1) rest s := by simpa [waitTrace] using (steps_wait_some hr hu hw).run
    simp only [Nat.zero_add] at hlow
    rw [hw]
    exact ⟨hrun, fun m hm => at_wait_of_low hr hu (by omega) fun i hi => hlow i (by omega)⟩
  · have hrun : engineRun s.nPoll s = raise .stretchTimeout (sampled s.nPoll rest s) := by
      simpa [waitTrace] using (steps_wait_none hr hu hn hw).run
    simp only [Nat.zero_add] at hlow
    rw [hw]
    exact ⟨hrun, fun m hm => at_wait_of_low hr hu hm fun i hi => hlow i (by omega)⟩

/-- Settles O17: RECV_ACK stands for RECV_BIT, and the one wait of its slot succeeds or times out. -/
theorem recvBitSamplesSda : Obligations.RecvBitSamplesSda := by
  intro i s hi h
  have hexpand : i.expand = .recvBit := by rcases hi with rfl | rfl <;> rfl
  cases hw : waitSamples (sclAt s) 0 s.nPoll with
  | some k =>
    obtain ⟨htrace, hexec⟩ := recvBit_done h hw
    refine ⟨htrace, completes_expand.mpr ?_⟩
    rw [hexpand]
    exact ⟨_, hexec, rfl, rfl, rfl, rfl, rfl⟩
  | none =>
    obtain ⟨htrace, hexec⟩ := recvBit_late h hw
    refine ⟨htrace, completes_expand.mpr ?_⟩
    rw [hexpand]
    exact ⟨_, hexec, rfl, rfl, rfl, rfl, rfl⟩

/-- Settles O18: the one wait of the slot succeeds or times out. -/
theorem sendBitDrivesSda : Obligations.SendBitDrivesSda := by
  intro b s h
  rw [← encode_sendBit]
  cases hw : waitSamples (sclAt s) 0 s.nPoll with
  | some k =>
    obtain ⟨htrace, hexec⟩ := sendBit_done h b hw
    exact ⟨htrace, _, hexec, rfl, rfl, rfl, rfl, rfl⟩
  | none =>
    obtain ⟨htrace, hexec⟩ := sendBit_late h b hw
    exact ⟨htrace, _, hexec, rfl, rfl, rfl, rfl, rfl⟩

/-- Settles O19: by O18 at B = 0 and B = 1. -/
theorem aliasesRunTheirExpansions : Obligations.AliasesRunTheirExpansions := by
  refine ⟨exec_expand, fun s h => ?_⟩
  have hack := sendBitDrivesSda false s h
  have hnack := sendBitDrivesSda true s h
  cases hw : waitSamples (sclAt s) 0 s.nPoll with
  | some k =>
    rw [hw] at hack hnack
    obtain ⟨⟨htrace, hack⟩, ⟨htrace', hnack⟩⟩ := And.intro hack hnack
    exact ⟨htrace, completes_expand.mpr hack, htrace', completes_expand.mpr hnack⟩
  | none =>
    rw [hw] at hack hnack
    obtain ⟨⟨htrace, hack⟩, ⟨htrace', hnack⟩⟩ := And.intro hack hnack
    exact ⟨htrace, completes_expand.mpr hack, htrace', completes_expand.mpr hnack⟩

/-- Settles O20: a bit command is one slot, done with one SDA sample or timed out with none. -/
theorem frameOfBitCommands : Obligations.FrameOfBitCommands := by
  intro i s t hi h ht
  have hexpand : i.expand = .recvBit ∨ ∃ b, i.expand = .sendBit b := by
    rcases hi with rfl | rfl | ⟨b, rfl⟩ | rfl | rfl
    · exact .inl rfl
    · exact .inl rfl
    · exact .inr ⟨b, rfl⟩
    · exact .inr ⟨false, rfl⟩
    · exact .inr ⟨true, rfl⟩
  rw [exec_expand] at ht
  rcases hexpand with hi | ⟨b, hi⟩ <;> rw [hi] at ht
  · cases hw : waitSamples (sclAt s) 0 s.nPoll with
    | some k =>
      obtain ⟨-, hexec⟩ := recvBit_done h hw
      cases hexec.symm.trans ht
      refine ⟨rfl, rfl, rfl, rfl, .inr fun j => ?_, rfl, rfl, rfl, rfl⟩
      rw [sdaAt_finish, sdaAt_doWork, sdaAt_setUpc, sdaAt_slotDone, sdaAt_accept]
    | none =>
      obtain ⟨-, hexec⟩ := recvBit_late h hw
      cases hexec.symm.trans ht
      exact ⟨rfl, rfl, rfl, rfl, .inl rfl, rfl, rfl, rfl, rfl⟩
  · cases hw : waitSamples (sclAt s) 0 s.nPoll with
    | some k =>
      obtain ⟨-, hexec⟩ := sendBit_done h b hw
      cases hexec.symm.trans ht
      refine ⟨rfl, rfl, rfl, rfl, .inr fun j => ?_, rfl, rfl, rfl, rfl⟩
      rw [sdaAt_finish, sdaAt_setUpc, sdaAt_slotDone, sdaAt_accept]
    | none =>
      obtain ⟨-, hexec⟩ := sendBit_late h b hw
      cases hexec.symm.trans ht
      exact ⟨rfl, rfl, rfl, rfl, .inl rfl, rfl, rfl, rfl, rfl⟩

/-- Settles O36: every run keeps that SCL is released at a timeout, and the Engine ends idle. -/
theorem timeoutLeavesSclReleased : Obligations.TimeoutLeavesSclReleased := by
  intro i s t h ht
  have hstart : ReleasedAtTimeout (offerWord (encode i) s) := by
    rw [offerWord_encode h i]
    exact releasedAtTimeout_ofList rfl (stepLists_waitsReleased _ (stepListOf_mem i) _) (by simp)
  have ⟨hr, _, _⟩ := h
  have hidle : (runToIdle (offerWord (encode i) s)).upc = .idle :=
    runToIdle_upc (by rw [offerWord_encode h i, accept_rst, hr])
  have hend : ReleasedAtTimeout (runToIdle (offerWord (encode i) s)) := releasedAtTimeout_engineRun _ hstart
  rw [ReleasedAtTimeout, hidle] at hend
  rw [exec_eq_runToIdle] at ht
  cases ht
  exact hend

end Sys2Proof.Proofs

end

section
/-! SUPPORT and the settled statements of 41_byte_engine.md. First the slots of a frame from any place in it, then a frame as its
slots one after another, then the frame commands, the engine steps of every command, and the obligations. -/

namespace Sys2Proof.Proofs

open Sys2Proof.Machine Sys2Proof.Laws

/-! ## Work before the first step of a step list -/

theorem setUpc_of_upc {s : State} {u : Upc} (h : s.upc = u) : setUpc u s = s := by
  rw [← h]
  rfl

/-- The run of some steps depends on the first token and on the state after it. -/
theorem steps_of_first {tok : Token} {tr : List Token} {s s' t : State} (htok : nextToken s = nextToken s')
    (hstep : engineStep s = engineStep s') (h : Steps (tok :: tr) s' t) : Steps (tok :: tr) s t := by
  refine ⟨?_, fun m => ?_⟩
  · rw [← h.run, List.length_cons, engineRun_succ, engineRun_succ, hstep]
  · rw [← h.trace_eq m, List.length_cons, Nat.add_right_comm, trace, trace, htok, hstep]

/-- Work loaded in front of a list that begins with a SetSDA is done before it. -/
theorem steps_loading {w : Work} {v : BitSrc} {rest : StepList} {tok : Token} {tr : List Token} {s t : State}
    (hr : s.rst = false) (hw : ∀ u v, w.apply (setUpc u v) = setUpc u (w.apply v))
    (h : Steps (tok :: tr) (setUpc (Upc.ofList (op (.setSda v) :: rest)) (w.apply s)) t) :
    Steps (tok :: tr) (setUpc (Upc.ofList (loading w (op (.setSda v) :: rest))) s) t := by
  have hr' : (w.apply s).rst = false := (work_keepsOutside w s).rst.trans hr
  refine steps_of_first ?_ ?_ h
  · refine (nextToken_setSda (s := setUpc (Upc.ofList _) s) hr rfl rfl).trans ?_
    refine .trans ?_ (nextToken_setSda (s := setUpc (Upc.ofList _) (w.apply s)) hr' rfl rfl).symm
    simp only [doWork_cons, hw]
    exact congrArg (some ∘ Token.d) (value_congr v rfl rfl rfl)
  · refine (engineStep_run (s := setUpc (Upc.ofList _) s) hr rfl).trans ?_
    refine .trans ?_ (engineStep_run (s := setUpc (Upc.ofList _) (w.apply s)) hr' rfl).symm
    rw [microStep_setSda (v := v) _ _ rfl, microStep_setSda (v := v) _ _ rfl, atPrimitive, doWork_cons, hw]
    rfl

/-! ## Bits of a byte received (R166, R167) -/

/-- A shift register after the first `j` bits of a stream (R166). -/
def received (level : Nat → Bit) (shift : Byte) : Nat → Byte
  | 0 => shift
  | j + 1 => shiftedIn (received level shift j) (level j)

theorem shiftedIn_getLsbD (shift : Byte) (b : Bit) {i : Nat} (hi : i < 8) :
    (shiftedIn shift b).getLsbD i = if i = 0 then b else shift.getLsbD (i - 1) := by
  refine (BitVec.getLsbD_append (x := shift.extractLsb' 0 7) (y := BitVec.ofBool b)).trans ?_
  cases i with
  | zero => simp
  | succ i => simp [show i < 7 by omega]

/-- The bit received `n` bits before the last of `j` stands at place `n`. -/
theorem received_getLsbD (level : Nat → Bit) (shift : Byte) {i j n : Nat} (hj : i + n + 1 = j) (hle : j ≤ 8) :
    (received level shift j).getLsbD n = level i := by
  subst hj
  induction n with
  | zero => rw [received, shiftedIn_getLsbD _ _ (by omega), if_pos rfl]
  | succ n ih =>
    rw [← Nat.add_assoc, received, shiftedIn_getLsbD _ _ (by omega), if_neg (by omega)]
    exact ih (by omega)

theorem dataBit_received (level : Nat → Bit) (shift : Byte) {j : Nat} (hj : j < 8) :
    dataBit (received level shift 8) j = level j :=
  received_getLsbD level shift (by omega) le_rfl

/-- A byte is its eight data bits. -/
theorem eq_of_dataBit {a b : Byte} (h : ∀ j, j < 8 → dataBit a j = dataBit b j) : a = b := by
  refine BitVec.eq_of_getLsbD_eq fun i hi => ?_
  have hbit := h (7 - i) (by omega)
  rwa [dataBit, dataBit, Nat.sub_sub_self (by omega)] at hbit

theorem lostIn_succ (byte : Byte) (s : State) (j : Nat) :
    lostIn byte s (j + 1) = (lostIn byte s j || (dataBit byte j && !sdaAt s j)) := by
  simp [lostIn, List.range_succ]

/-! ## The place of a frame (R160) -/

theorem sclAt_slotDone (v lost : Bit) (k : Nat) (s : State) (i : Nat) : sclAt (slotDone v lost k s) i = sclAt s (k + i) := by
  rw [← sclAt_dropScl, dropScl_eq]
  rfl

/-- `t` is in a frame begun in `s`, after `j` slots that took `taken` samples of SCL, with the steps `l` left. -/
structure AtSlot (s : State) (l : StepList) (j taken : Nat) (shift : Byte) (lost : Bit) (t : State) : Prop where
  upc : t.upc = Upc.ofList l
  rst : t.rst = false
  nPoll : t.nPoll = s.nPoll
  bitcnt : t.bitcnt = BitVec.ofNat 4 j
  shift : t.shift = shift
  arbAcc : t.arbAcc = lost
  resErr : t.resErr = 0#3
  resBit : t.resBit = false
  rxValid : t.rxValid = false
  status : t.status = s.status.accepted
  scl : ∀ i, sclAt t i = sclAt s (taken + i)
  sda : ∀ i, sdaAt t i = sdaAt s (j + i)

/-- What a frame comes to: the latches Finish copies, SHIFT, and the lines. -/
structure Ending where
  err : BitVec 3
  arbLost : Bit
  bit : Bit
  rxValid : Bit
  shift : Byte
  sclOut : Bit
  sdaOut : Bit

/-- `t` is at the Finish of a command accepted in `s`, with the ending given. -/
structure AtFinish (s : State) (e : Ending) (t : State) : Prop where
  upc : t.upc = .fin
  status : t.status = s.status.accepted
  resErr : t.resErr = e.err
  arbAcc : t.arbAcc = e.arbLost
  resBit : t.resBit = e.bit
  rxValid : t.rxValid = e.rxValid
  shift : t.shift = e.shift
  sclOut : t.sclOut = e.sclOut
  sdaOut : t.sdaOut = e.sdaOut

section Place
variable {s t : State} {l : StepList} {j taken k : Nat} {shift : Byte} {lost : Bit}

/-- The wait of the next slot, on the stream of the frame. -/
theorem AtSlot.wait (h : AtSlot s l j taken shift lost t) :
    waitSamples (sclAt t) 0 t.nPoll = waitSamples (sclAt s) taken s.nPoll := by
  rw [waitSamples_shift (sclAt s) taken, h.nPoll, funext h.scl]

theorem AtSlot.shiftBit (h : AtSlot s l j taken shift lost t) (hj : j < 8) : BitSrc.shiftBit.value t = dataBit shift j := by
  rw [BitSrc.value, h.shift, h.bitcnt, BitVec.toNat_ofNat, Nat.mod_eq_of_lt (by omega), dataBit]

theorem AtSlot.bitcnt_succ (h : AtSlot s l j taken shift lost t) : t.bitcnt + 1#4 = BitVec.ofNat 4 (j + 1) := by
  rw [h.bitcnt, BitVec.ofNat_add]

/-- The SCL stream after a slot and the work at its end. -/
theorem AtSlot.scl_next (h : AtSlot s l j taken shift lost t) {ws : List Work} {u : Upc} {v c : Bit} {k : Nat} (i : Nat) :
    sclAt (doWork ws (setUpc u (slotDone v c k t))) i = sclAt s (taken + k + i) := by
  rw [sclAt_doWork, sclAt_setUpc, sclAt_slotDone, h.scl, Nat.add_assoc]

/-- The SDA stream after a slot and the work at its end. -/
theorem AtSlot.sda_next (h : AtSlot s l j taken shift lost t) {ws : List Work} {u : Upc} {v c : Bit} {k : Nat} (i : Nat) :
    sdaAt (doWork ws (setUpc u (slotDone v c k t))) i = sdaAt s (j + 1 + i) := by
  rw [sdaAt_doWork, sdaAt_setUpc, sdaAt_slotDone, h.sda, Nat.add_assoc, Nat.add_comm 1]

/-- A data slot sent (R161). -/
theorem AtSlot.send (h : AtSlot s (sendBitSeq .shiftBit [.nextBit] ++ l) j taken shift lost t) (hj : j < 8)
    (hw : waitSamples (sclAt s) taken s.nPoll = some k) :
    ∃ u, Steps (sendSlot s.nPoll k (dataBit shift j) (dataBit shift j && sdaAt s j)) t u
      ∧ AtSlot s l (j + 1) (taken + k) shift (lost || (dataBit shift j && !sdaAt s j)) u := by
  have steps := steps_sendBitSeq (rest := l) h.rst .shiftBit [.nextBit] (h.wait.trans hw)
  rw [setUpc_of_upc h.upc, h.shiftBit hj, h.nPoll, h.sda 0] at steps
  exact ⟨_, steps, rfl, h.rst, h.nPoll, h.bitcnt_succ, h.shift, congrArg (· || _) h.arbAcc, h.resErr, h.resBit, h.rxValid,
    h.status, h.scl_next, h.sda_next⟩

/-- A data slot received (R166). -/
theorem AtSlot.recv (h : AtSlot s (recvBitSeq [.shiftIn, .nextBit] ++ l) j taken shift lost t)
    (hw : waitSamples (sclAt s) taken s.nPoll = some k) :
    ∃ u, Steps (recvSlot s.nPoll k (sdaAt s j)) t u
      ∧ AtSlot s l (j + 1) (taken + k) (shiftedIn shift (sdaAt s j)) lost u := by
  have steps := steps_recvBitSeq (rest := l) h.rst [.shiftIn, .nextBit] (h.wait.trans hw)
  rw [setUpc_of_upc h.upc, h.nPoll, h.sda 0] at steps
  exact ⟨_, steps, rfl, h.rst, h.nPoll, h.bitcnt_succ, congrArg₂ shiftedIn h.shift (h.sda 0), (Bool.or_false _).trans h.arbAcc,
    h.resErr, h.resBit, h.rxValid, h.status, h.scl_next, h.sda_next⟩

/-- A data slot sent whose wait times out. -/
theorem AtSlot.send_late (h : AtSlot s (sendBitSeq .shiftBit [.nextBit] ++ l) j taken shift lost t) (hj : j < 8)
    (hn : 1 ≤ s.nPoll) (hw : waitSamples (sclAt s) taken s.nPoll = none) :
    ∃ u, Steps (sendSlotLate s.nPoll (dataBit shift j)) t u
      ∧ AtFinish s ⟨2#3, lost, false, false, shift, true, dataBit shift j⟩ u := by
  have steps := steps_sendBitSeq_late (rest := l) h.rst .shiftBit [.nextBit] (h.nPoll ▸ hn) (h.wait.trans hw)
  rw [setUpc_of_upc h.upc, h.shiftBit hj, h.nPoll] at steps
  exact ⟨_, steps, rfl, h.status, rfl, h.arbAcc, h.resBit, h.rxValid, h.shift, rfl, rfl⟩

/-- A slot received whose wait times out. -/
theorem AtSlot.recv_late {ret : List Work} (h : AtSlot s (recvBitSeq ret ++ l) j taken shift lost t)
    (hn : 1 ≤ s.nPoll) (hw : waitSamples (sclAt s) taken s.nPoll = none) :
    ∃ u, Steps (recvSlotLate s.nPoll) t u ∧ AtFinish s ⟨2#3, lost, false, false, shift, true, true⟩ u := by
  have steps := steps_recvBitSeq_late (rest := l) h.rst ret (h.nPoll ▸ hn) (h.wait.trans hw)
  rw [setUpc_of_upc h.upc, h.nPoll] at steps
  exact ⟨_, steps, rfl, h.status, rfl, h.arbAcc, h.resBit, h.rxValid, h.shift, rfl, rfl⟩

/-- The acknowledge slot of `SendFrame()`. -/
theorem AtSlot.recvAck (h : AtSlot s (recvBitSeq [.returnBit]) j taken shift lost t)
    (hw : waitSamples (sclAt s) taken s.nPoll = some k) :
    ∃ u, Steps (recvSlot s.nPoll k (sdaAt s j)) t u ∧ AtFinish s ⟨0#3, lost, sdaAt s j, false, shift, false, true⟩ u := by
  have steps := steps_recvBitSeq (rest := []) h.rst [.returnBit] (h.wait.trans hw)
  rw [List.append_nil, setUpc_of_upc h.upc, h.nPoll, h.sda 0] at steps
  exact ⟨_, steps, rfl, h.status, h.resErr, (Bool.or_false _).trans h.arbAcc, h.sda 0, h.rxValid, h.shift, rfl, rfl⟩

/-- The acknowledge slot of RECV_BYTE. -/
theorem AtSlot.sendAck (h : AtSlot s (loading .markReceived (sendBitSeq (.const false) [])) j taken shift lost t)
    (hw : waitSamples (sclAt s) taken s.nPoll = some k) :
    ∃ u, Steps (sendSlot s.nPoll k false false) t u ∧ AtFinish s ⟨0#3, lost, false, true, shift, false, false⟩ u := by
  have steps : Steps (sendSlot t.nPoll k false false)
      (setUpc (Upc.ofList (loading .markReceived (sendBitSeq (.const false) []))) t) _ :=
    steps_loading h.rst (fun _ _ => rfl)
      (steps_sendBitSeq (s := Work.markReceived.apply t) (rest := []) h.rst (.const false) [] (h.wait.trans hw))
  rw [setUpc_of_upc h.upc, h.nPoll] at steps
  exact ⟨_, steps, rfl, h.status, h.resErr, (Bool.or_false _).trans h.arbAcc, h.resBit, rfl, h.shift, rfl, rfl⟩

/-- The acknowledge slot of RECV_BYTE when its wait times out. -/
theorem AtSlot.sendAck_late (h : AtSlot s (loading .markReceived (sendBitSeq (.const false) [])) j taken shift lost t)
    (hn : 1 ≤ s.nPoll) (hw : waitSamples (sclAt s) taken s.nPoll = none) :
    ∃ u, Steps (sendSlotLate s.nPoll false) t u ∧ AtFinish s ⟨2#3, lost, false, true, shift, true, false⟩ u := by
  have steps : Steps (sendSlotLate t.nPoll false)
      (setUpc (Upc.ofList (loading .markReceived (sendBitSeq (.const false) []))) t) _ :=
    steps_loading h.rst (fun _ _ => rfl)
      (steps_sendBitSeq_late (s := Work.markReceived.apply t) (rest := []) h.rst (.const false) [] (h.nPoll ▸ hn)
        (h.wait.trans hw))
  rw [setUpc_of_upc h.upc, h.nPoll] at steps
  exact ⟨_, steps, rfl, h.status, rfl, h.arbAcc, h.resBit, rfl, h.shift, rfl, rfl⟩

end Place

/-! ## A frame: eight data slots, then the acknowledge slot (R160) -/

/-- The steps of a frame left before slot `j`. -/
def slotsFrom (data ack : StepList) (j : Nat) : StepList := (List.replicate (8 - j) data).flatten ++ ack

theorem slotsFrom_of_lt (data ack : StepList) {j : Nat} (hj : j < 8) :
    slotsFrom data ack j = data ++ slotsFrom data ack (j + 1) := by
  rw [slotsFrom, show 8 - j = (8 - (j + 1)) + 1 by omega, List.replicate_succ, List.flatten_cons, List.append_assoc, slotsFrom]

/-- Slots that keep an invariant of the places between them run one after another, up to the first whose wait times out. -/
theorem steps_slots {level : Nat → Bit} {n : Nat} {slotOf : Nat → Nat → List Token} {lateOf : Nat → List Token}
    {At : Nat → Nat → State → Prop} {Ends : FrameWaits → State → Prop}
    (hdata : ∀ {j taken k t}, j < 8 → At j taken t → waitSamples level taken n = some k →
      ∃ u, Steps (slotOf j k) t u ∧ At (j + 1) (taken + k) u)
    (hack : ∀ {taken k t}, At 8 taken t → waitSamples level taken n = some k →
      ∃ u, Steps (slotOf 8 k) t u ∧ Ends (.all (taken + k)) u)
    (hlate : ∀ {j taken t}, j ≤ 8 → At j taken t → waitSamples level taken n = none →
      ∃ u, Steps (lateOf j) t u ∧ Ends (.timeout j taken) u)
    {left j taken : Nat} {t : State} (hj : j + left = 8) (h : At j taken t) :
    ∃ u, Steps (slotsTrace level n slotOf lateOf (left + 1) j taken) t u
      ∧ Ends (frameWaits level n (left + 1) j taken) u := by
  induction left generalizing j taken t with
  | zero =>
    obtain rfl : j = 8 := hj
    cases hw : waitSamples level taken n with
    | none => simpa [slotsTrace, frameWaits, hw] using hlate le_rfl h hw
    | some k => simpa [slotsTrace, frameWaits, hw] using hack h hw
  | succ left ih =>
    rw [slotsTrace, frameWaits]
    cases hw : waitSamples level taken n with
    | none => exact hlate (by omega) h hw
    | some k =>
      obtain ⟨u, hslot, hu⟩ := hdata (by omega) h hw
      obtain ⟨v, hrest, hv⟩ := ih (by omega) hu
      exact ⟨v, hslot.append hrest, hv⟩

/-- What `SendFrame()` of a byte comes to (R161, R162, R163). -/
def sendEnding (data : Byte) (s : State) : FrameWaits → Ending
  | .all _ => ⟨0#3, lostIn data s 8, sdaAt s 8, false, data, false, true⟩
  | .timeout j _ => ⟨2#3, lostIn data s (min j 8), false, false, data, true, if j < 8 then dataBit data j else true⟩

/-- What RECV_BYTE comes to (R166, R167, R169): `RX_VALID` is set when the eight data bits have been received. -/
def recvEnding (s : State) : FrameWaits → Ending
  | .all _ => ⟨0#3, false, false, true, received (sdaAt s) s.shift 8, false, false⟩
  | .timeout j _ => ⟨2#3, false, false, decide (8 ≤ j), received (sdaAt s) s.shift (min j 8), true, decide (j < 8)⟩

/-- `SendFrame()` from its first slot. -/
theorem steps_sendFrame {s t : State} {data : Byte} (hn : 1 ≤ s.nPoll) (h : AtSlot s sendFrame 0 0 data false t) :
    ∃ u, Steps (sendFrameTrace data s) t u ∧ AtFinish s (sendEnding data s (nineWaits s)) u := by
  refine steps_slots (left := 8) (At := fun j taken t =>
    AtSlot s (slotsFrom (sendBitSeq .shiftBit [.nextBit]) (recvBitSeq [.returnBit]) j) j taken data (lostIn data s j) t)
    (Ends := fun w => AtFinish s (sendEnding data s w)) ?_ ?_ ?_ rfl h
  · intro j taken k t hj h hw
    rw [slotsFrom_of_lt _ _ hj] at h
    rw [if_pos hj, lostIn_succ]
    exact h.send hj hw
  · intro taken k t h hw
    exact h.recvAck hw
  · intro j taken t hj h hw
    rcases hj.lt_or_eq with hj | rfl
    · rw [slotsFrom_of_lt _ _ hj] at h
      rw [sendEnding, if_pos hj, if_pos hj, min_eq_left hj.le]
      exact h.send_late hj hn hw
    · exact h.recv_late (l := []) hn hw

/-- RECV_BYTE from its first slot. -/
theorem steps_recvFrame {s t : State} (hn : 1 ≤ s.nPoll) (h : AtSlot s recvByteList 0 0 s.shift false t) :
    ∃ u, Steps (recvFrameTrace s) t u ∧ AtFinish s (recvEnding s (nineWaits s)) u := by
  refine steps_slots (left := 8) (At := fun j taken t =>
    AtSlot s (slotsFrom (recvBitSeq [.shiftIn, .nextBit]) (loading .markReceived (sendBitSeq (.const false) [])) j) j taken
      (received (sdaAt s) s.shift j) false t)
    (Ends := fun w => AtFinish s (recvEnding s w)) ?_ ?_ ?_ rfl h
  · intro j taken k t hj h hw
    rw [slotsFrom_of_lt _ _ hj] at h
    rw [if_pos hj]
    exact h.recv hw
  · intro taken k t h hw
    exact h.sendAck hw
  · intro j taken t hj h hw
    rcases hj.lt_or_eq with hj | rfl
    · rw [slotsFrom_of_lt _ _ hj] at h
      rw [recvEnding, if_pos hj, decide_eq_true hj, decide_eq_false hj.not_ge, min_eq_left hj.le]
      exact h.recv_late hn hw
    · exact h.sendAck_late hn hw

/-! ## The frame commands (R161, R166, R190) -/

/-- A command accepted in a state that is ready, before its first step. -/
theorem atSlot_accept {s : State} (h : Ready s) (w : Word) (l : StepList) :
    AtSlot s l 0 0 s.shift false (accept w (some l) s) := by
  have ⟨hr, _, _⟩ := h
  exact ⟨rfl, hr, rfl, rfl, rfl, rfl, rfl, rfl, rfl, rfl, fun i => by simp, fun i => by simp⟩

/-- The byte a command sends in a frame (R161, R190). -/
def frameByte : Instr → Option Byte
  | .sendByte data => some data
  | .sendAddr id r => some (addressByte id r)
  | .recvBit | .sendBit _ | .recvByte | .start | .stop | .release | .recvAck | .sendAck | .sendNack => none

/-- A command that sends a byte loads it into SHIFT from its word, and runs `SendFrame()`. -/
theorem stepListOf_of_frameByte {i : Instr} {data : Byte} (hi : frameByte i = some data) :
    ∃ w, stepListOf i = loading w sendFrame ∧ (∀ u v, w.apply (setUpc u v) = setUpc u (w.apply v))
      ∧ ∀ s, s.cur = encode i → w.apply s = { s with shift := data } := by
  cases i with
  | sendByte d =>
    cases hi
    refine ⟨.loadData, rfl, fun _ _ => rfl, fun s hs => ?_⟩
    rw [Work.apply, curData, hs, argField_encode_sendByte]
  | sendAddr id r =>
    cases hi
    refine ⟨.loadAddr, rfl, fun _ _ => rfl, fun s hs => ?_⟩
    rw [Work.apply, curAddressByte, hs, idField_encode_sendAddr, rField_encode_sendAddr]
  | recvBit | sendBit | recvByte | start | stop | release | recvAck | sendAck | sendNack => cases hi

theorem sendFrameTrace_eq_cons (data : Byte) (s : State) : ∃ tok tr, sendFrameTrace data s = tok :: tr := by
  rw [sendFrameTrace, slotsTrace]
  cases waitSamples (sclAt s) 0 s.nPoll with
  | none => exact ⟨_, _, rfl⟩
  | some k => exact ⟨_, _, rfl⟩

section FrameCommands
variable {s : State} (h : Ready s)
include h

/-- SEND_BYTE and SEND_ADDR: the frame of their byte, for every environment. -/
theorem sendFrame_command {i : Instr} {data : Byte} (hi : frameByte i = some data) :
    traceToIdle (offerWord (encode i) s) = sendFrameTrace data s ++ [Token.f]
      ∧ ∃ t, exec i s = .next (finish t) ∧ AtFinish s (sendEnding data s (nineWaits s)) t := by
  have ⟨hr, _, hn⟩ := h
  obtain ⟨w, hlist, hupc, hload⟩ := stepListOf_of_frameByte hi
  have haccept := atSlot_accept h (encode i) sendFrame
  have hloaded : AtSlot s sendFrame 0 0 data false (w.apply (accept (encode i) (some sendFrame) s)) := by
    rw [hload _ rfl]
    exact ⟨rfl, hr, rfl, rfl, rfl, rfl, rfl, rfl, rfl, rfl, haccept.scl, haccept.sda⟩
  obtain ⟨t, hsteps, ht⟩ := steps_sendFrame hn hloaded
  obtain ⟨tok, tr, htrace⟩ := sendFrameTrace_eq_cons data s
  rw [← setUpc_of_upc hloaded.upc, htrace] at hsteps
  rw [htrace]
  have hrun := steps_loading (s := accept (encode i) (some sendFrame) s) hr hupc hsteps
  obtain ⟨htrace, hexec⟩ := command_of_steps h (hlist ▸ hrun) ht.upc
  exact ⟨htrace, t, hexec, ht⟩

/-- RECV_BYTE, for every environment. -/
theorem recvByte_command :
    traceToIdle (offerWord (encode .recvByte) s) = recvFrameTrace s ++ [Token.f]
      ∧ ∃ t, exec .recvByte s = .next (finish t) ∧ AtFinish s (recvEnding s (nineWaits s)) t := by
  have ⟨_, _, hn⟩ := h
  obtain ⟨t, hsteps, ht⟩ := steps_recvFrame hn (atSlot_accept h (encode .recvByte) recvByteList)
  obtain ⟨htrace, hexec⟩ := command_of_steps h hsteps ht.upc
  exact ⟨htrace, t, hexec, ht⟩

theorem exec_cur {i : Instr} {t : State} (ht : exec i s = .next t) : t.cur = encode i := by
  rw [exec_eq_runToIdle] at ht
  cases ht
  rw [runToIdle, engineRun_cur, offerWord_encode h, accept_cur]

/-- The result of a command that comes to its Finish with the ending given (R47). -/
theorem completes_of_atFinish {i : Instr} {t : State} {e : Ending} (hexec : exec i s = .next (finish t)) (ht : AtFinish s e t) :
    Completes i s (encode i) e.err e.arbLost (if e.err = 0#3 then e.bit else false)
      (if e.rxValid then e.shift else s.status.rxdata) e.sclOut e.sdaOut := by
  refine ⟨_, hexec, ?_, ht.sclOut, ht.sdaOut, exec_cur h hexec, rfl⟩
  rw [finish_status, ht.status, ht.resErr, ht.resBit, ht.arbAcc, ht.rxValid, ht.shift]
  cases e.rxValid <;> rfl

end FrameCommands

theorem encode_sendByte (data : Byte) : encode (.sendByte data) = data ++ 0x03#8 := by
  revert data
  decide

/-- Every ending of `SendFrame()` leaves `RX_VALID` at 0 and the byte in SHIFT. -/
theorem sendEnding_shift (data : Byte) (s : State) (w : FrameWaits) :
    (sendEnding data s w).rxValid = false ∧ (sendEnding data s w).shift = data := by
  cases w <;> exact ⟨rfl, rfl⟩

/-- Every ending of RECV_BYTE leaves RES_BIT and ARB_ACC at 0. -/
theorem recvEnding_bit (s : State) (w : FrameWaits) : (recvEnding s w).bit = false ∧ (recvEnding s w).arbLost = false := by
  cases w <;> exact ⟨rfl, rfl⟩

theorem sendFrame_frame {i : Instr} {data : Byte} (hi : frameByte i = some data) {s t : State} (h : Ready s)
    (ht : exec i s = .next t) : t.status.rxdata = s.status.rxdata ∧ t.shift = data ∧ t.rxValid = false := by
  obtain ⟨-, u, hexec, hu⟩ := sendFrame_command h hi
  cases hexec.symm.trans ht
  obtain ⟨hrx, hshift⟩ := sendEnding_shift data s (nineWaits s)
  have hvalid : u.rxValid = false := hu.rxValid.trans hrx
  refine ⟨?_, hu.shift.trans hshift, hvalid⟩
  rw [finish_status, hvalid, hu.status]
  rfl

/-- No command changes the inputs, the parameter, the agenda or the replies. -/
theorem runCommand_keepsInputs (w : Word) (sel : Option StepList) (s : State) :
    KeepsInputs { s with cur := (runCommand w sel s).cur } (runCommand w sel s) := by
  rw [runCommand, runToIdle]
  rcases offer_cases w sel s with ⟨-, h⟩ | ⟨-, -, h⟩ | ⟨-, -, h⟩ <;> rw [h] <;> constructor <;> simp

/-! ## A frame whose waits all succeed (R165, R171) -/

theorem waitSamples_of_high {f : Nat → Bit} {a n : Nat} (hn : 1 ≤ n) (h : f a = true) : waitSamples f a n = some 1 := by
  obtain ⟨m, rfl⟩ := Nat.exists_eq_add_of_le' hn
  simp [waitSamples, h]

/-- With SCL high at every sample each wait takes one. -/
theorem frameWaits_of_high {level : Nat → Bit} {n : Nat} (hn : 1 ≤ n) {left taken : Nat} (j : Nat)
    (h : ∀ i, i < left → level (taken + i) = true) : frameWaits level n left j taken = .all (taken + left) := by
  induction left generalizing j taken with
  | zero => rfl
  | succ left ih =>
    have hw : waitSamples level taken n = some 1 := waitSamples_of_high hn (h 0 (by omega))
    rw [frameWaits, hw]
    refine (ih (taken := taken + 1) (j + 1) fun i hi => ?_).trans (by rw [Nat.add_right_comm, Nat.add_assoc])
    rw [Nat.add_right_comm, Nat.add_assoc]
    exact h (i + 1) (by omega)

theorem slotsTrace_of_high {level : Nat → Bit} {n : Nat} (hn : 1 ≤ n) (slotOf : Nat → Nat → List Token)
    (lateOf : Nat → List Token) {left taken : Nat} (j : Nat) (h : ∀ i, i < left → level (taken + i) = true) :
    slotsTrace level n slotOf lateOf left j taken = ((List.range' j left).map (slotOf · 1)).flatten := by
  induction left generalizing j taken with
  | zero => rfl
  | succ left ih =>
    have hw : waitSamples level taken n = some 1 := waitSamples_of_high hn (h 0 (by omega))
    rw [slotsTrace, hw, List.range'_succ, List.map_cons, List.flatten_cons]
    refine congrArg (slotOf j 1 ++ ·) (ih (taken := taken + 1) (j + 1) fun i hi => ?_)
    rw [Nat.add_right_comm, Nat.add_assoc]
    exact h (i + 1) (by omega)

theorem sdaReads_append (a b : List Token) : sdaReads (a ++ b) = sdaReads a ++ sdaReads b :=
  List.filterMap_append

theorem sdaReads_waitTrace (n : Nat) (w : Option Nat) : sdaReads (waitTrace n w) = [] := by
  cases w <;> simp [waitTrace, sdaReads]

theorem sdaReads_sendSlot (n k : Nat) (v back : Bit) : sdaReads (sendSlot n k v back) = [back] := by
  rw [sendSlot, sdaReads_append, sdaReads_append, sdaReads_waitTrace]
  rfl

theorem sdaReads_recvSlot (n k : Nat) (b : Bit) : sdaReads (recvSlot n k b) = [b] := by
  rw [recvSlot, sdaReads_append, sdaReads_append, sdaReads_waitTrace]
  rfl

/-- Slots that each take one sample of SDA, all of them done, show those samples in order. -/
theorem sdaReads_slotsTrace {level : Nat → Bit} {n : Nat} {slotOf : Nat → Nat → List Token} {lateOf : Nat → List Token}
    {read : Nat → Bit} (hslot : ∀ j k, sdaReads (slotOf j k) = [read j]) {left j taken total : Nat}
    (hw : frameWaits level n left j taken = .all total) :
    sdaReads (slotsTrace level n slotOf lateOf left j taken) = (List.range' j left).map read := by
  induction left generalizing j taken with
  | zero => rfl
  | succ left ih =>
    rw [frameWaits] at hw
    rw [slotsTrace]
    cases hk : waitSamples level taken n with
    | none =>
      rw [hk] at hw
      cases hw
    | some k =>
      rw [hk] at hw
      rw [sdaReads_append, hslot, ih hw]
      rfl

/-- The samples of a frame sent whole: the read-backs of its eight data slots, then the acknowledge bit. -/
theorem sdaReads_sendFrameTrace {data : Byte} {s : State} {total : Nat} (hw : nineWaits s = .all total) :
    sdaReads (sendFrameTrace data s) =
      (List.range' 0 9).map fun j => if j < 8 then dataBit data j && sdaAt s j else sdaAt s 8 := by
  refine sdaReads_slotsTrace (fun j k => ?_) hw
  split
  · exact sdaReads_sendSlot ..
  · exact sdaReads_recvSlot ..

/-! ## Engine steps of a frame (R164, R170) -/

theorem waitSamples_bounds {f : Nat → Bit} {a n k : Nat} (hw : waitSamples f a n = some k) : 1 ≤ k ∧ k ≤ n := by
  rcases waitSamples_cases f a n with ⟨j, hj, hlt, -⟩ | ⟨hnone, -⟩
  · cases hj.symm.trans hw
    omega
  · cases hnone.symm.trans hw

theorem length_waitTrace_some (n : Nat) {k : Nat} (hk : 1 ≤ k) : (waitTrace n (some k)).length = k := by
  rw [waitTrace, List.length_append, List.length_replicate]
  exact Nat.sub_add_cancel hk

theorem length_waitTrace_none (n : Nat) : (waitTrace n none).length = n := List.length_replicate

theorem length_recvSlot (n : Nat) {k : Nat} (b : Bit) (hk : 1 ≤ k) : (recvSlot n k b).length = 6 + k := by
  simp only [recvSlot, List.length_append, List.length_cons, List.length_nil, length_waitTrace_some n hk]
  omega

theorem length_recvSlotLate (n : Nat) : (recvSlotLate n).length = 3 + n := by
  simp only [recvSlotLate, List.length_append, List.length_cons, List.length_nil, length_waitTrace_none]

theorem length_sendSlot (n : Nat) {k : Nat} (v back : Bit) (hk : 1 ≤ k) : (sendSlot n k v back).length = 5 + k := by
  simp only [sendSlot, List.length_append, List.length_cons, List.length_nil, length_waitTrace_some n hk]
  omega

theorem length_sendSlotLate (n : Nat) (v : Bit) : (sendSlotLate n v).length = 2 + n := by
  simp only [sendSlotLate, List.length_append, List.length_cons, List.length_nil, length_waitTrace_none]

/-- The engine steps of a frame whose data slots take `data` steps and the acknowledge slot `ack`, beside their samples, and
`dataLate` and `ackLate` when they time out. -/
def frameSteps (data ack dataLate ackLate n : Nat) : FrameWaits → Nat
  | .all total => data * 8 + ack + total
  | .timeout j taken => data * j + taken + (if j < 8 then dataLate else ackLate) + n

theorem length_slotsTrace {level : Nat → Bit} {n data ack dataLate ackLate : Nat} {slotOf : Nat → Nat → List Token}
    {lateOf : Nat → List Token}
    (hslot : ∀ j k, 1 ≤ k → (slotOf j k).length = (if j < 8 then data else ack) + k)
    (hlate : ∀ j, (lateOf j).length = (if j < 8 then dataLate else ackLate) + n) {left j taken : Nat} (hj : j + left = 8) :
    data * j + taken + (slotsTrace level n slotOf lateOf (left + 1) j taken).length =
      frameSteps data ack dataLate ackLate n (frameWaits level n (left + 1) j taken) := by
  induction left generalizing j taken with
  | zero =>
    obtain rfl : j = 8 := hj
    cases hw : waitSamples level taken n with
    | none =>
      simp [slotsTrace, frameWaits, hw, frameSteps, hlate]
      omega
    | some k =>
      simp [slotsTrace, frameWaits, hw, frameSteps, hslot 8 k (waitSamples_bounds hw).1]
      omega
  | succ left ih =>
    rw [slotsTrace, frameWaits]
    cases hw : waitSamples level taken n with
    | none =>
      simp only [frameSteps, hlate]
      omega
    | some k =>
      simp only [← ih (taken := taken + k) (show j + 1 + left = 8 by omega), List.length_append,
        hslot j k (waitSamples_bounds hw).1, if_pos (show j < 8 by omega), Nat.mul_succ]
      omega

theorem length_sendFrameTrace (data : Byte) (s : State) :
    (sendFrameTrace data s).length = frameSteps 5 6 2 3 s.nPoll (nineWaits s) := by
  rw [← Nat.zero_add (sendFrameTrace data s).length]
  refine length_slotsTrace (data := 5) (left := 8) (j := 0) (taken := 0) (fun j k hk => ?_) (fun j => ?_) rfl
  · split
    · exact length_sendSlot _ _ _ hk
    · exact length_recvSlot _ _ hk
  · split
    · exact length_sendSlotLate ..
    · exact length_recvSlotLate ..

theorem length_recvFrameTrace (s : State) : (recvFrameTrace s).length = frameSteps 6 5 3 2 s.nPoll (nineWaits s) := by
  rw [← Nat.zero_add (recvFrameTrace s).length]
  refine length_slotsTrace (data := 6) (left := 8) (j := 0) (taken := 0) (fun j k hk => ?_) (fun j => ?_) rfl
  · split
    · exact length_recvSlot _ _ hk
    · exact length_sendSlot _ _ _ hk
  · split
    · exact length_recvSlotLate ..
    · exact length_sendSlotLate ..

/-- Waits that all succeed take at least one sample each, and at most `N_POLL`. -/
theorem frameWaits_all_bounds {level : Nat → Bit} {n left j taken total : Nat}
    (hw : frameWaits level n left j taken = .all total) : taken + left ≤ total ∧ total ≤ taken + left * n := by
  induction left generalizing j taken with
  | zero =>
    cases hw
    simp
  | succ left ih =>
    rw [frameWaits] at hw
    cases hk : waitSamples level taken n with
    | none =>
      rw [hk] at hw
      cases hw
    | some k =>
      rw [hk] at hw
      have hbounds := waitSamples_bounds hk
      have hrest := ih hw
      rw [Nat.succ_mul]
      omega

/-! ## The commands without a frame (R181, R185, R195, R245) -/

theorem checkIdle_high {s : State} (h : s.smp = true) : doWork [.checkIdle] s = s := by
  simp [Work.apply, h]

theorem checkIdle_low {s : State} (h : s.smp = false) : doWork [.checkIdle] s = raise .busConflict s := by
  simp [Work.apply, h]

theorem selectedBy_of_not_isLegal {w : Word} (hw : isLegal w = false) : selectedBy w = none := by
  cases hd : decode w with
  | command i => simp [isLegal, hd] at hw
  | illegal why => exact selectedBy_illegal hd

/-- START after its check. -/
theorem steps_start_sequence {s : State} (hr : s.rst = false) :
    Steps [.d false, .s, .c false] (setUpc (Upc.ofList startList.tail) s)
      (setUpc .fin (setScl false (setSda false s))) :=
  (steps_setSda s hr (.const false)).append
    ((steps_settle (setSda false s) hr).append (steps_setScl (setSda false s) hr false))

/-- STOP after its wait. -/
theorem steps_stop_tail {s : State} (hr : s.rst = false) :
    Steps [.s, .d true] (setUpc (Upc.ofList [op .settle, op (.setSda (.const true))]) s) (setUpc .fin (setSda true s)) :=
  (steps_settle s hr).append (steps_setSda s hr (.const true))

section OtherCommands
variable {s : State} (h : Ready s)
include h

/-- START when SDA reads high: the start sequence (R181). -/
theorem start_idle (hsda : (s.sdaOut && sdaAt s 0) = true) :
    traceToIdle (offerWord (encode .start) s) = [.r true, .d false, .s, .c false, .f]
      ∧ exec .start s = .next (finish (setUpc .fin (setScl false (setSda false
          (readSda (accept (encode .start) (some startList) s)))))) := by
  have ⟨hr, _, _⟩ := h
  have hwire : sdaWire (accept (encode .start) (some startList) s) = true := (sdaWire_eq _).trans hsda
  have sample := steps_readSda (accept (encode .start) (some startList) s) (ws := [.checkIdle]) (rest := startList.tail) hr
  rw [checkIdle_high hwire, hwire] at sample
  exact command_of_steps (i := .start) (tr := [.r true, .d false, .s, .c false]) h
    (sample.append (steps_start_sequence hr)) rfl

/-- START when SDA reads low: BUS_CONFLICT (R181). -/
theorem start_conflict (hsda : (s.sdaOut && sdaAt s 0) = false) :
    traceToIdle (offerWord (encode .start) s) = [.r false, .f]
      ∧ exec .start s = .next (finish (raise .busConflict (readSda (accept (encode .start) (some startList) s)))) := by
  have ⟨hr, _, _⟩ := h
  have hwire : sdaWire (accept (encode .start) (some startList) s) = false := (sdaWire_eq _).trans hsda
  have sample := steps_readSda (accept (encode .start) (some startList) s) (ws := [.checkIdle]) (rest := startList.tail) hr
  rw [checkIdle_low hwire, hwire] at sample
  exact command_of_steps (i := .start) (tr := [.r false]) h sample rfl

/-- STOP up to its wait. -/
theorem steps_stop_head :
    Steps [.d false, .s, .c true] (accept (encode .stop) (some stopList) s)
      (setUpc (Upc.ofList [waitSclHigh, op .settle, op (.setSda (.const true))])
        (clockedHigh false (accept (encode .stop) (some stopList) s))) := by
  have ⟨hr, _, _⟩ := h
  exact (steps_setSda (accept (encode .stop) (some stopList) s) hr (.const false)).append
    ((steps_settle (setSda false (accept (encode .stop) (some stopList) s)) hr).append
      (steps_setScl (setSda false (accept (encode .stop) (some stopList) s)) hr true))

/-- STOP when its wait takes `k` samples (R185). -/
theorem stop_done {k : Nat} (hw : waitSamples (sclAt s) 0 s.nPoll = some k) :
    traceToIdle (offerWord (encode .stop) s) =
        [Token.d false, .s, .c true] ++ waitTrace s.nPoll (some k) ++ [Token.s, .d true] ++ [Token.f]
      ∧ exec .stop s = .next (finish (setUpc .fin (setSda true (waited false k (accept (encode .stop) (some stopList) s))))) := by
  have ⟨hr, _, _⟩ := h
  have hr' : (waited false k (accept (encode .stop) (some stopList) s)).rst = false := (waited_rst ..).trans hr
  have wait := steps_slot_wait (s := accept (encode .stop) (some stopList) s)
    (rest := [op .settle, op (.setSda (.const true))]) hr false hw
  exact command_of_steps (i := .stop) h (((steps_stop_head h).append wait).append (steps_stop_tail hr')) rfl

/-- STOP when its wait times out (R185). -/
theorem stop_late (hw : waitSamples (sclAt s) 0 s.nPoll = none) :
    traceToIdle (offerWord (encode .stop) s) = [Token.d false, .s, .c true] ++ waitTrace s.nPoll none ++ [Token.f]
      ∧ exec .stop s = .next (finish (slotLate false (accept (encode .stop) (some stopList) s))) := by
  have ⟨hr, _, hn⟩ := h
  have wait := steps_slot_timeout (s := accept (encode .stop) (some stopList) s)
    (rest := [op .settle, op (.setSda (.const true))]) hr false hn hw
  exact command_of_steps (i := .stop) h ((steps_stop_head h).append wait) rfl

/-- RELEASE (R195). -/
theorem release_done :
    traceToIdle (offerWord (encode .release) s) = [.c true, .d true, .f]
      ∧ exec .release s = .next (finish (setUpc .fin (setSda true (setScl true
          (accept (encode .release) (some releaseList) s))))) := by
  have ⟨hr, _, _⟩ := h
  exact command_of_steps (i := .release) (tr := [.c true, .d true]) h
    ((steps_setScl (accept (encode .release) (some releaseList) s) hr true).append
      (steps_setSda (setScl true (accept (encode .release) (some releaseList) s)) hr (.const true))) rfl

/-- An illegal word: Finish alone (R106, R245). -/
theorem illegal_done {w : Word} (hw : isLegal w = false) :
    traceToIdle (offerWord w s) = [.f] ∧ runToIdle (offerWord w s) = finish (accept w none s) := by
  have ⟨hr, hb, _⟩ := h
  rw [offerWord_ready w hr hb, selectedBy_of_not_isLegal hw]
  exact toIdle_of_steps (steps_finish (accept w none s) hr rfl) rfl

end OtherCommands

/-- The engine steps of a command, by its trace. -/
theorem stepsToIdle_of_trace {s : State} {tr : List Token} {n : Nat} (h : traceToIdle s = tr ++ [Token.f])
    (hn : tr.length + 1 = n) :
    stepsToIdle s = n := by
  rw [stepsToIdle, h, List.length_append, ← hn]
  rfl

/-! ## A byte read that ends with a NACK (R168) -/

theorem hostExec_of_exec {i : Instr} {h : HostRun} {t : State} (ht : exec i h.machine = .next t) :
    hostExec (encode i) h = (t.status, { machine := t, issued := h.issued ++ [encode i] }) := by
  rw [exec_eq_runToIdle] at ht
  cases ht
  rfl

theorem wrapped_of_exec {i : Instr} {h : HostRun} {t : State} (ht : exec i h.machine = .next t) :
    wrapped i h = (ret t.status i, { machine := t, issued := h.issued ++ [encode i] }) := by
  rw [wrapped, hostExec_of_exec ht]

/-- RECV_BIT with SCL high: the bit, and the streams moved on by the samples taken. -/
theorem recvBit_of_high {s : State} (h : Ready s) (hscl : sclAt s 0 = true) :
    ∃ t, exec .recvBit s = .next t ∧ t.status.err = 0#3 ∧ t.status.bit = sdaAt s 0 ∧ Ready t
      ∧ (∀ k, sclAt t k = sclAt s (1 + k)) ∧ ∀ k, sdaAt t k = sdaAt s (1 + k) := by
  have ⟨hr, _, hn⟩ := h
  refine ⟨_, (recvBit_done h (waitSamples_of_high hn hscl)).2, rfl, rfl, ⟨hr, rfl, hn⟩, fun k => ?_, fun k => ?_⟩
  · rw [sclAt_finish, sclAt_doWork, sclAt_setUpc, sclAt_slotDone, sclAt_accept]
  · rw [sdaAt_finish, sdaAt_doWork, sdaAt_setUpc, sdaAt_slotDone, sdaAt_accept, Nat.add_comm]

/-- RECV_BIT commands with SCL high, after `j` bits of a byte: the next `n` bits. -/
theorem hostRecvBits_of_high {bits : Nat → Bit} {n j : Nat} {h : HostRun} (hready : Ready h.machine)
    (hscl : ∀ k, k < n → sclAt h.machine k = true) (hsda : ∀ k, sdaAt h.machine k = bits (j + k)) :
    ∃ r, hostRecvBits n (received bits 0#8 j) h = (none, received bits 0#8 (j + n), r) ∧ Ready r.machine
      ∧ r.issued = h.issued ++ List.replicate n 0x0001#16 ∧ ∀ k, sclAt r.machine k = sclAt h.machine (n + k) := by
  induction n generalizing j h with
  | zero => exact ⟨h, rfl, hready, by simp, fun k => by rw [Nat.zero_add]⟩
  | succ n ih =>
    obtain ⟨t, hexec, herr, hbit, ht, hscl', hsda'⟩ := recvBit_of_high hready (hscl 0 n.succ_pos)
    obtain ⟨r, hrest, hr, hissued, hlater⟩ := ih (j := j + 1)
      (h := { machine := t, issued := h.issued ++ [encode .recvBit] }) ht
      (fun k hk => by rw [hscl', Nat.add_comm]; exact hscl (k + 1) (by omega))
      (fun k => by rw [hsda', hsda, Nat.add_assoc])
    refine ⟨r, ?_, hr, ?_, fun k => ?_⟩
    · rw [hostRecvBits, hostExec_of_exec hexec]
      simp only [herr, ne_eq, not_true_eq_false, if_false]
      rw [hbit, hsda 0, show j + (n + 1) = j + 1 + n by omega]
      exact hrest
    · rw [hissued, List.append_assoc, List.replicate_succ]
      rfl
    · rw [hlater, hscl', ← Nat.add_assoc, Nat.add_comm 1]

/-- SEND_NACK with SCL high. -/
theorem hostSendNack_of_high {h : HostRun} (hready : Ready h.machine) (hscl : sclAt h.machine 0 = true) :
    ∃ t, hostSendBit true h = (0, { machine := t, issued := h.issued ++ [0x0102#16] })
      ∧ t.sdaOut = true ∧ t.sclOut = false := by
  have ⟨_, _, hn⟩ := hready
  obtain ⟨-, hexec⟩ := sendBit_done hready true (waitSamples_of_high hn hscl)
  have hsend := wrapped_of_exec (i := .sendBit true) hexec
  exact ⟨_, hsend, rfl, rfl⟩

/-! ## The obligations of 41_byte_engine.md -/

/-- Settles O21: by the waits of the nine slots. -/
theorem sendByteSendsAFrame : Obligations.SendByteSendsAFrame := by
  intro data s h
  obtain ⟨htrace, t, hexec, ht⟩ := sendFrame_command h (i := .sendByte data) rfl
  have hdone := completes_of_atFinish h hexec ht
  refine ⟨htrace, ?_⟩
  rw [← encode_sendByte]
  cases hw : nineWaits s with
  | all total =>
    rw [hw] at hdone
    exact hdone
  | timeout j taken =>
    rw [hw] at hdone
    exact hdone

/-- Settles O23: by the waits of the nine slots; the byte is the one the shift register holds after the eighth. -/
theorem recvByteAssemblesAByte : Obligations.RecvByteAssemblesAByte := by
  intro s h
  obtain ⟨htrace, t, hexec, ht⟩ := recvByte_command h
  have hdone := completes_of_atFinish h hexec ht
  refine ⟨htrace, received (sdaAt s) s.shift 8, fun j hj => dataBit_received _ _ hj, ?_⟩
  cases hw : nineWaits s with
  | all total =>
    rw [hw] at hdone
    exact hdone
  | timeout j taken =>
    rw [hw] at hdone
    by_cases hj : j < 8
    · rw [recvEnding, decide_eq_true hj, decide_eq_false hj.not_ge] at hdone
      simp only [hj, if_true]
      exact hdone
    · rw [recvEnding, decide_eq_false hj, decide_eq_true (not_lt.mp hj), min_eq_right (not_lt.mp hj)] at hdone
      simp only [hj, if_false]
      exact hdone

/-- Settles O25: by the ending of each frame command, whatever the waits, and by what no engine step writes. -/
theorem frameOfFrameCommands : Obligations.FrameOfFrameCommands := by
  refine ⟨fun data s t h ht => sendFrame_frame (i := .sendByte data) rfl h ht,
    fun id r s t h ht => sendFrame_frame (i := .sendAddr id r) rfl h ht, fun s t h ht => ?_, fun i s t ht => ?_⟩
  · obtain ⟨-, u, hexec, hu⟩ := recvByte_command h
    cases hexec.symm.trans ht
    obtain ⟨hbit, harb⟩ := recvEnding_bit s (nineWaits s)
    exact ⟨hu.resBit.trans hbit, hu.arbAcc.trans harb⟩
  · rw [exec_eq_runCommand] at ht
    cases ht
    have hk := runCommand_keepsInputs (encode i) (some (stepListOf i)) s
    exact ⟨hk.rst, hk.nPoll, hk.sclPeers, hk.sdaPeers, hk.freeStream, hk.pending, hk.replies⟩

/-- Settles O22: each wait takes one sample, and the acknowledge slot reads 0. -/
theorem byteIsEightBitsThenAcknowledge : Obligations.ByteIsEightBitsThenAcknowledge := by
  intro b s h hscl hack
  have ⟨_, _, hn⟩ := h
  obtain ⟨htrace, -⟩ := sendFrame_command h (i := .sendByte b) rfl
  rw [htrace, sendFrameTrace, slotsTrace_of_high hn _ _ 0 (by simpa using hscl), ← List.range_eq_range', List.range_succ,
    List.map_append, List.flatten_append, List.append_assoc]
  refine congrArg₂ (fun slots last => slots.flatten ++ last) (List.map_congr_left fun j hj => ?_) ?_
  · rw [if_pos (List.mem_range.mp hj)]
    rfl
  · simp [recvSlot, waitTrace, hack]

/-- Settles O24: the sender's read-backs are the bits of its byte, and a byte is its eight bits. -/
theorem sentByteIsReceived : Obligations.SentByteIsReceived := by
  intro b sender receiver hsender hreceiver ⟨_, hsent⟩ ⟨_, hgot⟩ hfree hbus
  have hbit : ∀ j, j < 8 → sdaAt receiver j = dataBit b j := by
    intro j hj
    have hread := hbus j hj
    rw [(sendFrame_command hsender (i := .sendByte b) rfl).1, sdaReads_append, sdaReads_sendFrameTrace hsent,
      List.getElem?_append_left (by simp; omega)] at hread
    simpa [hj, hfree j hj, show j < 9 by omega] using hread.symm
  obtain ⟨-, byte, hbyte, hdone⟩ := recvByteAssemblesAByte receiver hreceiver
  rw [hgot] at hdone
  obtain rfl : byte = b := eq_of_dataBit fun j hj => (hbyte j hj).trans (hbit j hj)
  exact hdone

/-- Settles O48: by the lengths of the traces, for each outcome of the waits. -/
theorem engineStepsPerCommand : Obligations.EngineStepsPerCommand := by
  intro s h
  refine ⟨?recvBit, fun b => ?sendBit, fun i hi => ?sendFrame, ?recvByte, ?start, ?stop,
    stepsToIdle_of_trace (tr := [.c true, .d true]) (release_done h).1 rfl,
    fun w hw => stepsToIdle_of_trace (tr := []) (illegal_done h hw).1 rfl,
    fun k hk => waitSamples_bounds hk, fun total ht => by simpa using frameWaits_all_bounds ht⟩
  case recvBit =>
    cases hw : waitSamples (sclAt s) 0 s.nPoll with
    | some k =>
      refine stepsToIdle_of_trace (n := 7 + k) (recvBit_done h hw).1 ?_
      rw [length_recvSlot _ _ (waitSamples_bounds hw).1]
      omega
    | none =>
      refine stepsToIdle_of_trace (n := 4 + s.nPoll) (recvBit_late h hw).1 ?_
      rw [length_recvSlotLate]
      omega
  case sendBit =>
    cases hw : waitSamples (sclAt s) 0 s.nPoll with
    | some k =>
      refine stepsToIdle_of_trace (n := 6 + k) (sendBit_done h b hw).1 ?_
      rw [length_sendSlot _ _ _ (waitSamples_bounds hw).1]
      omega
    | none =>
      refine stepsToIdle_of_trace (n := 3 + s.nPoll) (sendBit_late h b hw).1 ?_
      rw [length_sendSlotLate]
      omega
  case sendFrame =>
    obtain ⟨data, hdata⟩ : ∃ data, frameByte i = some data := by
      rcases hi with ⟨d, rfl⟩ | ⟨id, r, rfl⟩ <;> exact ⟨_, rfl⟩
    refine stepsToIdle_of_trace (sendFrame_command h hdata).1 ?_
    rw [length_sendFrameTrace]
    cases nineWaits s with
    | all total => simp only [frameSteps]; omega
    | timeout j taken => simp only [frameSteps]; split <;> omega
  case recvByte =>
    refine stepsToIdle_of_trace (recvByte_command h).1 ?_
    rw [length_recvFrameTrace]
    cases nineWaits s with
    | all total => simp only [frameSteps]; omega
    | timeout j taken => simp only [frameSteps]; split <;> omega
  case start =>
    cases hsda : s.sdaOut && sdaAt s 0 with
    | true => exact stepsToIdle_of_trace (tr := [.r true, .d false, .s, .c false]) (start_idle h hsda).1 rfl
    | false => exact stepsToIdle_of_trace (tr := [.r false]) (start_conflict h hsda).1 rfl
  case stop =>
    cases hw : waitSamples (sclAt s) 0 s.nPoll with
    | some k =>
      refine stepsToIdle_of_trace (n := 6 + k) (stop_done h hw).1 ?_
      simp only [List.length_append, List.length_cons, List.length_nil, length_waitTrace_some _ (waitSamples_bounds hw).1]
      omega
    | none =>
      refine stepsToIdle_of_trace (n := 4 + s.nPoll) (stop_late h hw).1 ?_
      simp only [List.length_append, List.length_cons, List.length_nil, length_waitTrace_none]
      omega

/-- Settles O56: the bits of the eight commands are those of RECV_BYTE, and the last slot sends 1. -/
theorem byteReadWithNack : Obligations.ByteReadWithNack := by
  intro h hready hscl
  have ⟨_, _, hn⟩ := hready
  obtain ⟨r, hbits, hr, hissued, hlater⟩ := hostRecvBits_of_high (n := 8) (j := 0) hready (fun k hk => hscl k (by omega))
    (fun k => by rw [Nat.zero_add])
  obtain ⟨t, hnack, hsda, hlow⟩ := hostSendNack_of_high hr ((hlater 0).trans (hscl 8 (by omega)))
  have hrun : hostRecvByteNack h
      = (0, received (sdaAt h.machine) 0#8 8, { machine := t, issued := r.issued ++ [0x0102#16] }) := by
    rw [hostRecvByteNack, show hostRecvBits 8 0#8 h = _ from hbits]
    simp only [hnack]
  obtain ⟨-, byte, hbyte, hdone⟩ := recvByteAssemblesAByte h.machine hready
  rw [show nineWaits h.machine = .all 9 from frameWaits_of_high hn 0 (by simpa using hscl)] at hdone
  obtain rfl : byte = received (sdaAt h.machine) 0#8 8 :=
    eq_of_dataBit fun j hj => (hbyte j hj).trans (dataBit_received _ _ hj).symm
  rw [hrun]
  exact ⟨rfl, hbyte, hdone, by rw [hissued], hsda, hlow⟩

end Sys2Proof.Proofs

end

section
/-! SUPPORT and the settled statements of 42_bus_conditions.md. First the engine steps of a run by its trace, then the start and
stop conditions by the token of the step that makes them, and the obligations. The commands themselves are run in the parts
before (`start_idle`, `stop_done`, `release_done`, `sendFrame_command`). -/

namespace Sys2Proof.Proofs

open Sys2Proof.Machine Sys2Proof.Laws

/-! ## The engine steps of a run, by its trace -/

theorem engineStep_of_nextToken_none {s : State} (h : nextToken s = none) : engineStep s = s := by
  rcases engineStep_cases s with ⟨-, heq⟩ | ⟨hr, hu, -⟩ | ⟨st, rest, hr, hu, -⟩
  · exact heq
  · cases (nextToken_fin hr hu).symm.trans h
  · cases (nextToken_run hr hu).symm.trans h

/-- The `m`-th token of a trace is that of the engine step taken after `m` others. -/
theorem getElem?_trace {m n : Nat} (hm : m < n) (s : State) : (trace n s)[m]? = nextToken (engineRun m s) := by
  induction n generalizing m s with
  | zero => omega
  | succ n ih =>
    rw [trace]
    cases htok : nextToken s with
    | none => rw [engineRun_fixed (engineStep_of_nextToken_none htok), htok]; rfl
    | some tok =>
      cases m with
      | zero => exact htok.symm
      | succ m => exact ih (by omega) (engineStep s)

/-- Every engine step of a run is in its trace to idle. -/
theorem mem_traceToIdle {s : State} {tok : Token} {n : Nat} (h : nextToken (engineRun n s) = some tok) :
    tok ∈ traceToIdle s := by
  refine List.mem_of_getElem? (i := n) ((getElem?_trace (Nat.lt_of_not_le fun hn => ?_) s).trans h)
  cases hr : s.rst with
  | true =>
    rw [nextToken_of_held_or_idle (.inl (by rw [engineRun_rst, hr]))] at h
    cases h
  | false =>
    rw [engineRun_eq_runToIdle hr hn, nextToken_of_held_or_idle (.inr (runToIdle_upc hr))] at h
    cases h

/-- A run without a SetSCL(1) leaves the SCL wire low when it finds it low, the Environment holding its level (R33, R36). -/
theorem scl_low_of_no_release {s : State} {sclHeld : Bit} (h : Token.c true ∉ traceToIdle s)
    (hlow : (s.sclOut && sclHeld) = false) (n : Nat) : ((engineRun n s).sclOut && sclHeld) = false := by
  induction n with
  | zero => exact hlow
  | succ n ih =>
    rw [engineRun_last]
    rcases engineStep_sclOut (engineRun n s) with hkept | htok
    · rw [hkept, ih]
    · cases hscl : (engineStep (engineRun n s)).sclOut with
      | false => rfl
      | true => exact absurd (mem_traceToIdle (hscl ▸ htok)) h

/-! ## Start and stop conditions (R180) -/

/-- `t` is at a SetSDA(v), with the line outputs as given. -/
structure AtSetSda (v scl sda : Bit) (t : State) : Prop where
  token : nextToken t = some (.d v)
  sclOut : t.sclOut = scl
  sdaOut : t.sdaOut = sda

theorem atSetSda_of_upc {t : State} {v scl sda : Bit} {rest : StepList} (hu : t.upc = .run (op (.setSda (.const v))) rest)
    (hr : t.rst = false) (hscl : t.sclOut = scl) (hsda : t.sdaOut = sda) : AtSetSda v scl sda t :=
  ⟨nextToken_setSda hr hu rfl, hscl, hsda⟩

section Conditions
variable {t : State} {scl sda : Bit} (sclHeld sdaHeld : Bit)

/-- A SetSDA(0) is a start condition exactly when both wires are high before it. -/
theorem AtSetSda.makesStart (h : AtSetSda false scl sda t) :
    makesStart sclHeld sdaHeld t = (scl && sclHeld && (sda && sdaHeld)) := by
  obtain ⟨-, -, hsda, -⟩ := engineStepDoesOnePrimitive t
  obtain ⟨hlow, hscl, -⟩ := hsda false h.token
  simp [Machine.makesStart, isStartCondition, hlow, hscl, h.sclOut, h.sdaOut]

/-- A SetSDA(1) from SDA driven low is a stop condition exactly when the SCL wire is high and no other device holds SDA low. -/
theorem AtSetSda.makesStop (h : AtSetSda true scl false t) :
    makesStop sclHeld sdaHeld t = (scl && sclHeld && sdaHeld) := by
  obtain ⟨-, -, hsda, -⟩ := engineStepDoesOnePrimitive t
  obtain ⟨hhigh, hscl, -⟩ := hsda true h.token
  simp [Machine.makesStop, isStopCondition, hhigh, hscl, h.sclOut, h.sdaOut]

/-- With the SCL wire low before it no step makes a start condition. -/
theorem makesStart_of_scl_low (h : (t.sclOut && sclHeld) = false) : makesStart sclHeld sdaHeld t = false := by
  simp [makesStart, isStartCondition, h]

end Conditions

/-! ## Where START, STOP and RELEASE set SDA -/

/-- What a slot's wait leaves: SCL released, SDA as driven before it, and all but SCL's samples and their count untouched. -/
theorem waited_eq (v : Bit) (k : Nat) (s : State) :
    waited v k s =
      { s with
        sclOut := true, sdaOut := v, pollcnt := k
        sclIn := s.sclIn.drop k, freeSclUsed := s.freeSclUsed + (k - s.sclIn.length) } := by
  rw [waited, dropScl_eq]
  rfl

section Commands
variable {s : State} (h : Ready s)
include h

/-- The first `n` engine steps of a command, from its offer. -/
theorem engineRun_offer {i : Instr} {tr : List Token} {t : State} {n : Nat} (hn : tr.length = n)
    (hsteps : Steps tr (accept (encode i) (some (stepListOf i)) s) t) : engineRun n (offerWord (encode i) s) = t := by
  rw [offerWord_encode h, ← hn, hsteps.run]

/-- START after its SDA sample reads high. -/
theorem start_atSetSda (hsda : (s.sdaOut && sdaAt s 0) = true) :
    AtSetSda false s.sclOut s.sdaOut (engineRun 1 (offerWord (encode .start) s)) := by
  have ⟨hr, _, _⟩ := h
  have hwire : sdaWire (accept (encode .start) (some startList) s) = true := (sdaWire_eq _).trans hsda
  have sample := steps_readSda (accept (encode .start) (some startList) s) (ws := [.checkIdle]) (rest := startList.tail) hr
  rw [checkIdle_high hwire] at sample
  rw [engineRun_offer h (i := .start) (n := 1) rfl sample]
  exact atSetSda_of_upc rfl hr rfl rfl

/-- STOP at its first step. -/
theorem stop_atFirstSetSda : AtSetSda false s.sclOut s.sdaOut (offerWord (encode .stop) s) := by
  have ⟨hr, _, _⟩ := h
  rw [offerWord_encode h]
  exact atSetSda_of_upc rfl hr rfl rfl

/-- STOP after a wait of `k` samples and the settle after it. -/
theorem stop_atLastSetSda {k : Nat} (hw : waitSamples (sclAt s) 0 s.nPoll = some k) :
    AtSetSda true true false (engineRun (4 + k) (offerWord (encode .stop) s)) := by
  have ⟨hr, _, _⟩ := h
  have wait := steps_slot_wait (s := accept (encode .stop) (some stopList) s)
    (rest := [op .settle, op (.setSda (.const true))]) hr false hw
  have settle := steps_settle (waited false k (accept (encode .stop) (some stopList) s)) (ws := [])
    (rest := [op (.setSda (.const true))]) ((waited_rst ..).trans hr)
  rw [engineRun_offer h (i := .stop) ?_ (((steps_stop_head h).append wait).append settle), waited_eq]
  · exact atSetSda_of_upc rfl hr rfl rfl
  · simp only [List.length_append, List.length_cons, List.length_nil, length_waitTrace_some _ (waitSamples_bounds hw).1]
    omega

/-- RELEASE after its SetSCL(1). -/
theorem release_atSetSda : AtSetSda true true s.sdaOut (engineRun 1 (offerWord (encode .release) s)) := by
  have ⟨hr, _, _⟩ := h
  rw [engineRun_offer h (i := .release) (n := 1) rfl
    (steps_setScl (accept (encode .release) (some releaseList) s) hr true)]
  exact atSetSda_of_upc rfl hr rfl rfl

end Commands

/-! ## The address byte (R191) -/

theorem addressByte_toNat (id : BitVec 7) (r : Bit) : (addressByte id r).toNat = 2 * id.toNat + r.toNat := by
  rw [addressByte, BitVec.toNat_append, ← Nat.shiftLeft_add_eq_or_of_lt (BitVec.ofBool r).isLt, Nat.shiftLeft_eq,
    Nat.mul_comm, BitVec.toNat_ofBool]

theorem addressByte_eq_or (id : BitVec 7) (r : Bit) :
    addressByte id r = id.setWidth 8 <<< 1 ||| (BitVec.ofBool r).setWidth 8 := by
  rw [addressByte, BitVec.append_def, BitVec.shiftLeftZeroExtend_eq, BitVec.setWidth'_eq]

theorem encode_sendAddr (id : BitVec 7) (r : Bit) :
    encode (.sendAddr id r) = 0#1 ++ id ++ 0#3 ++ BitVec.ofBool r ++ 0x7#4 := by
  revert id r
  decide

/-! ## The obligations of 42_bus_conditions.md -/

/-- Settles O26: the one SDA sample reads high or low. -/
theorem startChecksSda : Obligations.StartChecksSda := by
  intro s h
  cases hsda : s.sdaOut && sdaAt s 0 with
  | true =>
    obtain ⟨htrace, hexec⟩ := start_idle h hsda
    exact ⟨htrace, _, hexec, rfl, rfl, rfl, rfl, rfl⟩
  | false =>
    obtain ⟨htrace, hexec⟩ := start_conflict h hsda
    exact ⟨htrace, _, hexec, rfl, rfl, rfl, rfl, rfl⟩

/-- Settles O27: SetSDA(0) finds the lines as START found them, and no step of START releases SCL. -/
theorem startConditionNeedsSclHigh : Obligations.StartConditionNeedsSclHigh := by
  intro s sclHeld sdaHeld h hsda
  refine ⟨?_, fun hlow n => makesStart_of_scl_low _ _ ?_⟩
  · obtain ⟨hreleased, -⟩ : s.sdaOut = true ∧ sdaAt s 0 = true := by simpa using hsda
    have hmakes := (start_atSetSda h hsda).makesStart sclHeld sdaHeld
    rwa [hreleased, Bool.true_and] at hmakes
  · refine scl_low_of_no_release (s := offerWord (encode .start) s) ?_ ?_ n
    · rw [(start_idle h hsda).1]
      decide
    · rwa [offerWord_encode h, accept_sclOut]

/-- Settles O28: the one wait succeeds or times out. -/
theorem stopReleasesBothLines : Obligations.StopReleasesBothLines := by
  intro s h
  cases hw : waitSamples (sclAt s) 0 s.nPoll with
  | some k =>
    obtain ⟨htrace, hexec⟩ := stop_done h hw
    rw [waited_eq] at hexec
    exact ⟨htrace.trans (List.append_assoc ..), _, hexec, rfl, rfl, rfl, rfl, rfl⟩
  | none =>
    obtain ⟨htrace, hexec⟩ := stop_late h hw
    exact ⟨htrace, _, hexec, rfl, rfl, rfl, rfl, rfl⟩

/-- Settles O29: SetSDA(1) finds SCL released and SDA driven low; the first step of STOP is a SetSDA(0). -/
theorem stopConditionOnTheWire : Obligations.StopConditionOnTheWire := by
  intro s sclHeld sdaHeld h
  exact ⟨fun k hw => (stop_atLastSetSda h hw).makesStop sclHeld sdaHeld, (stop_atFirstSetSda h).makesStart sclHeld sdaHeld⟩

/-- Settles O30: SEND_ADDR sends the frame of its byte, and ends as the waits of the nine slots say. -/
theorem sendAddrSendsItsFrame : Obligations.SendAddrSendsItsFrame := by
  intro id r s h
  obtain ⟨htrace, t, hexec, ht⟩ := sendFrame_command h (i := .sendAddr id r) rfl
  have hdone := completes_of_atFinish h hexec ht
  refine ⟨htrace, ?_⟩
  rw [← encode_sendAddr]
  cases hw : nineWaits s with
  | all total =>
    rw [hw] at hdone
    exact hdone
  | timeout j taken =>
    rw [hw] at hdone
    exact hdone

/-- Settles O33: by the end state of each command, for each outcome of START's sample and of STOP's wait. -/
theorem frameOfBusConditions : Obligations.FrameOfBusConditions := by
  intro i s t hi h ht
  rcases hi with rfl | rfl | rfl
  · cases hsda : s.sdaOut && sdaAt s 0 with
    | true =>
      cases (start_idle h hsda).2.symm.trans ht
      exact ⟨rfl, rfl, rfl, rfl, rfl, rfl, fun _ => ⟨rfl, rfl⟩, fun hne => absurd rfl hne, rfl, rfl, rfl, rfl⟩
    | false =>
      cases (start_conflict h hsda).2.symm.trans ht
      exact ⟨rfl, rfl, rfl, rfl, rfl, rfl, fun _ => ⟨rfl, rfl⟩, fun hne => absurd rfl hne, rfl, rfl, rfl, rfl⟩
  · cases hw : waitSamples (sclAt s) 0 s.nPoll with
    | some k =>
      cases (stop_done h hw).2.symm.trans ht
      rw [waited_eq]
      exact ⟨rfl, rfl, rfl, rfl, rfl, rfl, fun hne => absurd rfl hne, fun _ => ⟨rfl, rfl⟩, rfl, rfl, rfl, rfl⟩
    | none =>
      cases (stop_late h hw).2.symm.trans ht
      exact ⟨rfl, rfl, rfl, rfl, rfl, rfl, fun hne => absurd rfl hne, fun _ => ⟨rfl, rfl⟩, rfl, rfl, rfl, rfl⟩
  · cases (release_done h).2.symm.trans ht
    exact ⟨rfl, rfl, rfl, rfl, rfl, rfl, fun _ => ⟨rfl, rfl⟩, fun _ => ⟨rfl, rfl⟩, rfl, rfl, rfl, rfl⟩

/-- Settles O31: the address byte is the shifted identifier with R below it, and all of its eight bits are kept. -/
theorem addressByteArithmetic : Obligations.AddressByteArithmetic := by
  refine ⟨fun id r => ⟨?_, addressByte_toNat id r⟩, rfl, rfl⟩
  rw [addressByte_eq_or, show 0xFF#8 = BitVec.allOnes 8 from rfl, BitVec.and_allOnes]

/-- Settles O32: RELEASE takes no sample and waits for nothing; its SetSDA(1) finds SCL released. -/
theorem releaseReleasesBothLines : Obligations.ReleaseReleasesBothLines := by
  intro s h
  obtain ⟨htrace, hexec⟩ := release_done h
  refine ⟨htrace, ⟨_, hexec, rfl, rfl, rfl, rfl, rfl⟩, fun _ hdriven => ?_⟩
  have hat := release_atSetSda h
  rw [hdriven] at hat
  exact hat.makesStop true true

end Sys2Proof.Proofs

end

section
/-! SUPPORT and the settled statements of 45_host_transactions.md. First the samples a run takes, by its trace, then the commands of
a transaction on an idle bus that no device stretches, the phases of `transfer` on such a bus, and what a phase reports on any
bus; then the obligations. -/

namespace Sys2Proof.Proofs

open Sys2Proof.Machine Sys2Proof.Laws

/-! ## The samples a run takes, by its trace (R37, R133) -/

/-- How many samples of SCL an engine step takes. -/
def sclTaken : Token → Nat
  | .p _ => 1
  | .c _ | .d _ | .s | .r _ | .f => 0

/-- How many samples of SDA an engine step takes. -/
def sdaTaken : Token → Nat
  | .r _ => 1
  | .c _ | .d _ | .s | .p _ | .f => 0

/-- From `s` to `t` so many samples of SCL and of SDA have been taken. -/
structure Sampled (scl sda : Nat) (s t : State) : Prop where
  scl : ∀ k, sclAt t k = sclAt s (scl + k)
  sda : ∀ k, sdaAt t k = sdaAt s (sda + k)

theorem Sampled.refl (s : State) : Sampled 0 0 s s := ⟨fun k => by rw [Nat.zero_add], fun k => by rw [Nat.zero_add]⟩

theorem Sampled.trans {a b c d : Nat} {s t u : State} (h : Sampled a b s t) (h' : Sampled c d t u) :
    Sampled (a + c) (b + d) s u :=
  ⟨fun k => by rw [h'.scl, h.scl, Nat.add_assoc], fun k => by rw [h'.sda, h.sda, Nat.add_assoc]⟩

/-- An engine step takes the samples its token shows. -/
theorem engineStep_sampled {s : State} {tok : Token} (h : nextToken s = some tok) :
    Sampled (sclTaken tok) (sdaTaken tok) s (engineStep s) := by
  suffices hs : (∀ k, sclAt (engineStep s) k = sclAt s (k + sclTaken tok))
      ∧ ∀ k, sdaAt (engineStep s) k = sdaAt s (k + sdaTaken tok) from
    ⟨fun k => by rw [hs.1, Nat.add_comm], fun k => by rw [hs.2, Nat.add_comm]⟩
  rcases engineStep_cases s with ⟨hidle, -⟩ | ⟨hr, hu, heq⟩ | ⟨st, rest, hr, hu, heq⟩
  · cases (nextToken_of_held_or_idle hidle).symm.trans h
  · cases (nextToken_fin hr hu).symm.trans h
    simp [heq, sclTaken, sdaTaken]
  · rw [heq]
    cases hprim : st.prim with
    | setScl v =>
      cases (nextToken_setScl hr hu hprim).symm.trans h
      simp [microStep_setScl rest s hprim, sclTaken, sdaTaken]
    | setSda v =>
      cases (nextToken_setSda hr hu hprim).symm.trans h
      simp [microStep_setSda rest s hprim, sclTaken, sdaTaken]
    | settle =>
      cases (nextToken_settle hr hu hprim).symm.trans h
      simp [microStep_settle rest s hprim, sclTaken, sdaTaken]
    | readSda =>
      cases (nextToken_readSda hr hu hprim).symm.trans h
      simp [microStep_readSda rest s hprim, sclTaken, sdaTaken]
    | pollScl =>
      cases (nextToken_pollScl hr hu hprim).symm.trans h
      obtain ⟨hscl, hsda, -⟩ := pollScl_sample st rest (atPrimitive st rest s)
      simp [microStep_pollScl rest s hprim, hscl, hsda, sclTaken, sdaTaken]

/-- A run takes the samples its trace shows. -/
theorem engineRun_sampled (n : Nat) (s : State) :
    Sampled ((trace n s).map sclTaken).sum ((trace n s).map sdaTaken).sum s (engineRun n s) := by
  induction n generalizing s with
  | zero => exact .refl s
  | succ n ih =>
    rw [trace]
    cases htok : nextToken s with
    | none =>
      rw [engineRun_fixed (engineStep_of_nextToken_none htok)]
      exact .refl s
    | some tok =>
      rw [List.map_cons, List.map_cons, List.sum_cons, List.sum_cons]
      exact (engineStep_sampled htok).trans (ih (engineStep s))

/-- A command takes the samples its trace shows. -/
theorem exec_sampled {i : Instr} {s t : State} {tr : List Token} (h : Ready s) (ht : exec i s = .next t)
    (htrace : traceToIdle (offerWord (encode i) s) = tr) : Sampled (tr.map sclTaken).sum (tr.map sdaTaken).sum s t := by
  rw [exec_eq_runToIdle] at ht
  cases ht
  have hrun : Sampled ((traceToIdle (offerWord (encode i) s)).map sclTaken).sum
      ((traceToIdle (offerWord (encode i) s)).map sdaTaken).sum (offerWord (encode i) s) _ := engineRun_sampled ..
  rw [htrace] at hrun
  refine ⟨fun k => (hrun.scl k).trans ?_, fun k => (hrun.sda k).trans ?_⟩ <;> simp [offerWord_encode h]

/-! ## A Host's run that goes on without an error -/

/-- From `h` to `r` the words `ws` have been issued and have finished, and so many samples of each line have been taken; the I2CBB
accepts the next command. -/
structure Continues (h : HostRun) (ws : List Word) (scl sda : Nat) (r : HostRun) : Prop where
  ready : Ready r.machine
  issued : r.issued = h.issued ++ ws
  sampled : Sampled scl sda h.machine r.machine

theorem Continues.refl {h : HostRun} (hready : Ready h.machine) : Continues h [] 0 0 h :=
  ⟨hready, by rw [List.append_nil], .refl _⟩

theorem Continues.trans {h r u : HostRun} {ws vs : List Word} {a b c d : Nat} (hr : Continues h ws a b r)
    (hu : Continues r vs c d u) : Continues h (ws ++ vs) (a + c) (b + d) u :=
  ⟨hu.ready, by rw [hu.issued, hr.issued, List.append_assoc], hr.sampled.trans hu.sampled⟩

/-- SCL reads high at what is left of the samples that all read high. -/
theorem Continues.high {h r : HostRun} {ws : List Word} {a b n : Nat} (hr : Continues h ws a b r)
    (hscl : ∀ k, k < a + n → sclAt h.machine k = true) : ∀ k, k < n → sclAt r.machine k = true :=
  fun k hk => (hr.sampled.scl k).trans (hscl _ (by omega))

/-- A command that finishes without an error lets the transaction go on, where no NACK ends it. -/
theorem phase_of_completes {p : HostParams} (hp : p.nackAborts = false) {h : HostRun} (hready : Ready h.machine) {i : Instr}
    {tr : List Token} {scl sda : Nat} {w : Word} {arbLost bit : Bit} {rxdata : Byte} {sclOut sdaOut : Bit} (ack : Bool)
    (htrace : traceToIdle (offerWord (encode i) h.machine) = tr) (hscl : (tr.map sclTaken).sum = scl)
    (hsda : (tr.map sdaTaken).sum = sda) (hdone : Completes i h.machine w 0#3 arbLost bit rxdata sclOut sdaOut) :
    ∃ st r, phase p i ack h = (none, st, r) ∧ st.rxdata = rxdata ∧ Continues h [encode i] scl sda r := by
  have ⟨hr, _, hn⟩ := hready
  obtain ⟨t, hexec, hstatus, -⟩ := hdone
  obtain ⟨-, -, -, hframe⟩ := frameOfFrameCommands
  obtain ⟨hrst, hnPoll, -⟩ := hframe i h.machine t hexec
  refine ⟨t.status, { machine := t, issued := h.issued ++ [encode i] }, ?_, congrArg Status.rxdata hstatus,
    ⟨hrst.trans hr, congrArg Status.busy hstatus, hnPoll.symm ▸ hn⟩, rfl, hscl ▸ hsda ▸ exec_sampled hready hexec htrace⟩
  rw [phase, hostExec_of_exec hexec]
  simp [hstatus, hp]

/-- The samples of a frame of slots that each take one, its Finish included. -/
theorem samples_slotsTrace {count : Token → Nat} (hfinish : count .f = 0) {level : Nat → Bit} {n : Nat} (hn : 1 ≤ n)
    {slotOf : Nat → Nat → List Token} {lateOf : Nat → List Token} (hslot : ∀ j, ((slotOf j 1).map count).sum = 1)
    {left : Nat} (h : ∀ i, i < left → level i = true) :
    ((slotsTrace level n slotOf lateOf left 0 0 ++ [Token.f]).map count).sum = left := by
  rw [slotsTrace_of_high hn _ _ 0 (by simpa using h)]
  simp [List.map_flatten, List.sum_flatten, Function.comp_def, hslot, hfinish]

/-! ## The commands of a transaction on an idle bus that no device stretches -/

section Commands
variable {p : HostParams} (hp : p.nackAborts = false) {h : HostRun} (hready : Ready h.machine)
include hp hready

/-- START with SDA high (R181). -/
theorem phase_start (hsda : (h.machine.sdaOut && sdaAt h.machine 0) = true) :
    ∃ st r, phase p .start false h = (none, st, r) ∧ Continues h [encode .start] 0 1 r := by
  have hstart := startChecksSda h.machine hready
  rw [if_pos hsda] at hstart
  obtain ⟨htrace, hdone⟩ := hstart
  obtain ⟨st, r, hphase, -, hr⟩ := phase_of_completes (i := .start) hp hready false htrace rfl rfl hdone
  exact ⟨st, r, hphase, hr⟩

/-- SEND_BYTE and SEND_ADDR with SCL high at the nine waits (R161, R190). -/
theorem phase_sendFrame {i : Instr} {data : Byte} (hi : frameByte i = some data)
    (hscl : ∀ k, k < 9 → sclAt h.machine k = true) :
    ∃ st r, phase p i true h = (none, st, r) ∧ Continues h [encode i] 9 9 r := by
  have ⟨_, _, hn⟩ := hready
  obtain ⟨htrace, t, hexec, ht⟩ := sendFrame_command hready hi
  have hdone := completes_of_atFinish hready hexec ht
  rw [show nineWaits h.machine = .all 9 from frameWaits_of_high hn 0 (by simpa using hscl)] at hdone
  obtain ⟨st, r, hphase, -, hr⟩ := phase_of_completes hp hready true htrace
    (samples_slotsTrace rfl hn (fun j => by split <;> rfl) hscl)
    (samples_slotsTrace rfl hn (fun j => by split <;> rfl) hscl) hdone
  exact ⟨st, r, hphase, hr⟩

/-- RECV_BYTE with SCL high at the nine waits (R166). -/
theorem phase_recvByte (hscl : ∀ k, k < 9 → sclAt h.machine k = true) :
    ∃ st r, phase p .recvByte false h = (none, st, r) ∧ (∀ j, j < 8 → dataBit st.rxdata j = sdaAt h.machine j)
      ∧ Continues h [encode .recvByte] 9 9 r := by
  have ⟨_, _, hn⟩ := hready
  obtain ⟨htrace, byte, hbyte, hdone⟩ := recvByteAssemblesAByte h.machine hready
  rw [show nineWaits h.machine = .all 9 from frameWaits_of_high hn 0 (by simpa using hscl)] at hdone
  obtain ⟨st, r, hphase, rfl, hr⟩ := phase_of_completes (i := .recvByte) hp hready false htrace
    (samples_slotsTrace rfl hn (fun j => by split <;> rfl) hscl)
    (samples_slotsTrace rfl hn (fun j => by split <;> rfl) hscl) hdone
  exact ⟨st, r, hphase, hbyte, hr⟩

/-- STOP with SCL high at its wait (R185). -/
theorem phase_stop (hscl : sclAt h.machine 0 = true) :
    ∃ st r, phase p .stop false h = (none, st, r) ∧ Continues h [encode .stop] 1 0 r := by
  have ⟨_, _, hn⟩ := hready
  have hstop := stopReleasesBothLines h.machine hready
  rw [waitSamples_of_high hn hscl] at hstop
  obtain ⟨htrace, hdone⟩ := hstop
  obtain ⟨st, r, hphase, -, hr⟩ := phase_of_completes (i := .stop) hp hready false htrace rfl rfl hdone
  exact ⟨st, r, hphase, hr⟩

end Commands

/-! ## `transfer` on an idle bus that no device stretches (R215) -/

/-- The words of START and the address frame. -/
def startWords (p : HostParams) (flags : Nat) : List Word :=
  if hasFlag flags fStart then [encode .start, encode (.sendAddr p.slaveId (hasFlag flags fRead))] else []

/-- The command that moves a data byte. -/
def dataCommand (write : Bool) (b : Byte) : Instr := if write then .sendByte b else .recvByte

/-- The words that move the bytes of a buffer. -/
def dataWords (write : Bool) (buf : List Byte) : List Word := buf.map fun b => encode (dataCommand write b)

/-- The word of STOP. -/
def stopWords (flags : Nat) : List Word := if hasFlag flags fStop then [encode .stop] else []

/-- The SCL samples of START and the address frame, with no wait stretched. -/
def startScl (flags : Nat) : Nat := if hasFlag flags fStart then 9 else 0

/-- The SDA samples of START and the address frame: START's check, and one a slot. -/
def startSda (flags : Nat) : Nat := if hasFlag flags fStart then 10 else 0

/-- The SCL samples of STOP. -/
def stopScl (flags : Nat) : Nat := if hasFlag flags fStop then 1 else 0

/-- What the data bytes of a transfer leave in the buffer: sent, the bytes that were there; received, the levels of the data slots
on a stream of SDA samples with nine a byte (R166, R215). -/
structure Moved (write : Bool) (buf moved : List Byte) (level : Nat → Bit) : Prop where
  length : moved.length = buf.length
  sent : write = true → moved = buf
  received : write = false → ∀ i j b, j < 8 → moved[i]? = some b → dataBit b j = level (9 * i + j)

theorem Moved.nil (write : Bool) (level : Nat → Bit) : Moved write [] [] level :=
  ⟨rfl, fun _ => rfl, fun _ i j b _ hb => by cases hb⟩

theorem Moved.cons {write : Bool} {b m : Byte} {buf moved : List Byte} {level : Nat → Bit}
    (hsent : write = true → m = b) (hreceived : write = false → ∀ j, j < 8 → dataBit m j = level j)
    (h : Moved write buf moved fun k => level (9 + k)) : Moved write (b :: buf) (m :: moved) level := by
  refine ⟨by rw [List.length_cons, List.length_cons, h.length], fun hw => by rw [hsent hw, h.sent hw], ?_⟩
  intro hw i j c hj hc
  cases i with
  | zero =>
    cases hc
    rw [Nat.mul_zero, Nat.zero_add]
    exact hreceived hw j hj
  | succ i =>
    rw [h.received hw i j c hj hc]
    congr 1
    omega

section Transfer
variable {p : HostParams} (hp : p.nackAborts = false) {h : HostRun} (hready : Ready h.machine)
include hp hready

theorem startPhase_of_high (flags : Nat) (hsda : (h.machine.sdaOut && sdaAt h.machine 0) = true)
    (hscl : ∀ k, k < 9 → sclAt h.machine k = true) :
    ∃ r, startPhase p flags h = (none, r)
      ∧ Continues h [encode .start, encode (.sendAddr p.slaveId (hasFlag flags fRead))] 9 10 r := by
  obtain ⟨_, r, hstart, hr⟩ := phase_start hp hready hsda
  obtain ⟨_, u, haddr, hu⟩ := phase_sendFrame hp hr.ready (i := .sendAddr p.slaveId (hasFlag flags fRead)) rfl
    (hr.high (by simpa using hscl))
  refine ⟨u, ?_, hr.trans hu⟩
  simp only [startPhase, hstart, haddr]

/-- One data byte sent or received (R215). -/
theorem phase_dataCommand (write : Bool) (b : Byte) (hscl : ∀ k, k < 9 → sclAt h.machine k = true) :
    ∃ st r, phase p (dataCommand write b) write h = (none, st, r)
      ∧ (write = false → ∀ j, j < 8 → dataBit st.rxdata j = sdaAt h.machine j)
      ∧ Continues h [encode (dataCommand write b)] 9 9 r := by
  cases write with
  | true =>
    obtain ⟨st, r, hphase, hr⟩ := phase_sendFrame hp hready (i := .sendByte b) rfl hscl
    exact ⟨st, r, hphase, nofun, hr⟩
  | false =>
    obtain ⟨st, r, hphase, hbyte, hr⟩ := phase_recvByte hp hready hscl
    exact ⟨st, r, hphase, fun _ => hbyte, hr⟩

theorem dataPhase_of_high (write : Bool) (buf : List Byte) (hscl : ∀ k, k < 9 * buf.length → sclAt h.machine k = true) :
    ∃ moved r, dataPhase p write buf h = (none, moved, r) ∧ Moved write buf moved (sdaAt h.machine)
      ∧ Continues h (dataWords write buf) (9 * buf.length) (9 * buf.length) r := by
  induction buf generalizing h with
  | nil => exact ⟨[], h, rfl, .nil _ _, .refl hready⟩
  | cons b later ih =>
    rw [List.length_cons, Nat.mul_succ, Nat.add_comm] at hscl ⊢
    obtain ⟨st, r, hphase, hbyte, hr⟩ := phase_dataCommand hp hready write b fun k hk => hscl k (by omega)
    obtain ⟨moved, u, hrest, hmoved, hu⟩ := ih hr.ready (hr.high hscl)
    rw [funext hr.sampled.sda] at hmoved
    refine ⟨_, u, ?_, .cons (m := if write then b else st.rxdata) (fun hw => if_pos hw) (fun hw => ?_) hmoved, hr.trans hu⟩
    · rw [dataCommand] at hphase
      simp only [dataPhase, hphase, hrest]
    · rw [hw]
      exact hbyte hw

/-- `transfer` on an idle bus that no device stretches: what it returns, leaves in the buffer, issues and samples. -/
theorem transfer_of_high (buf : List Byte) (flags : Nat)
    (hscl : ∀ k, k < startScl flags + (9 * buf.length + stopScl flags) → sclAt h.machine k = true)
    (hsda : hasFlag flags fStart = true → (h.machine.sdaOut && sdaAt h.machine 0) = true) :
    ∃ moved r, transfer p buf flags h = { ret := (buf.length : Int), buf := moved, run := r }
      ∧ Moved (hasFlag flags fWrite) buf moved (fun k => sdaAt h.machine (startSda flags + k))
      ∧ Continues h (startWords p flags ++ (dataWords (hasFlag flags fWrite) buf ++ stopWords flags))
        (startScl flags + (9 * buf.length + stopScl flags)) (startSda flags + (9 * buf.length + 0)) r := by
  obtain ⟨r, hstart, hr⟩ : ∃ r, (if hasFlag flags fStart then startPhase p flags h else (none, h)) = (none, r)
      ∧ Continues h (startWords p flags) (startScl flags) (startSda flags) r := by
    unfold startWords startScl startSda at *
    split
    · next hf =>
      rw [if_pos hf] at hscl
      exact startPhase_of_high hp hready flags (hsda hf) fun k hk => hscl k (by omega)
    · exact ⟨h, rfl, .refl hready⟩
  have hleft := hr.high hscl
  obtain ⟨moved, u, hdata, hmoved, hu⟩ := dataPhase_of_high hp hr.ready (hasFlag flags fWrite) buf
    fun k hk => hleft k (by omega)
  rw [funext hr.sampled.sda] at hmoved
  have hlast := hu.high hleft
  unfold stopWords stopScl at *
  cases hf : hasFlag flags fStop with
  | true =>
    rw [hf] at hlast
    obtain ⟨_, v, hstop, hv⟩ := phase_stop hp hu.ready (hlast 0 Nat.one_pos)
    refine ⟨moved, v, ?_, hmoved, hr.trans (hu.trans hv)⟩
    simp only [transfer, hstart, hdata, hf, hstop, if_true]
  | false =>
    refine ⟨moved, u, ?_, hmoved, hr.trans (hu.trans (.refl hu.ready))⟩
    simp [transfer, hstart, hdata, hf]

end Transfer

/-! ## What a phase reports on any bus (R215, R217) -/

/-- A phase from `h` to `r` reports a failure, if any, as the STATUS after its last command says; without one, nothing was issued
or the last command finished without an error. -/
structure Reports (p : HostParams) (h : HostRun) (f : Failure) (r : HostRun) : Prop where
  inv : r.machine.Inv
  went_on : f = none → r = h ∨ r.machine.status.err = 0#3
  failed : ∀ e, f = some e →
    (r.machine.status.err ≠ 0#3 ∧ e = -(r.machine.status.err.toNat : Int))
    ∨ (p.nackAborts = true ∧ r.machine.status.err = 0#3 ∧ r.machine.status.bit = true ∧ e = -4)

theorem Reports.refl (p : HostParams) {h : HostRun} (hinv : h.machine.Inv) : Reports p h none h :=
  ⟨hinv, fun _ => .inl rfl, fun e he => by cases he⟩

theorem Reports.trans {p : HostParams} {h r u : HostRun} {f : Failure} (hr : Reports p h none r) (hu : Reports p r f u) :
    Reports p h f u := by
  refine ⟨hu.inv, fun hf => ?_, hu.failed⟩
  rcases hu.went_on hf with rfl | herr
  · exact hr.went_on rfl
  · exact .inr herr

/-- What a phase can do: its command has been run, and its STATUS says how the phase ends (R215). -/
theorem phase_cases (p : HostParams) (i : Instr) (ack : Bool) (h : HostRun) :
    ∃ f r, phase p i ack h = (f, r.machine.status, r) ∧ r.machine = runToIdle (offerWord (encode i) h.machine)
      ∧ ((f = some (-(r.machine.status.err.toNat : Int)) ∧ r.machine.status.err ≠ 0#3)
        ∨ (f = some (-4) ∧ r.machine.status.err = 0#3 ∧ p.nackAborts = true ∧ r.machine.status.bit = true)
        ∨ (f = none ∧ r.machine.status.err = 0#3)) := by
  refine ⟨(phase p i ack h).1, (hostExec (encode i) h).2, ?_⟩
  rw [phase, hostExec_of_exec (exec_eq_runToIdle i h.machine)]
  generalize runToIdle (offerWord (encode i) h.machine) = t
  by_cases herr : t.status.err = 0#3
  · cases hnack : ack && p.nackAborts && t.status.bit with
    | true =>
      obtain ⟨⟨hack, hp⟩, hbit⟩ : (ack = true ∧ p.nackAborts = true) ∧ t.status.bit = true := by simpa using hnack
      simp [herr, hack, hp, hbit, eNack]
    | false => simp [herr, hnack]
  · simp [herr, ret]

theorem phase_reports (p : HostParams) (i : Instr) (ack : Bool) {h : HostRun} (hinv : h.machine.Inv) :
    Reports p h (phase p i ack h).1 (phase p i ack h).2.2 := by
  obtain ⟨f, r, hphase, hrun, hcases⟩ := phase_cases p i ack h
  have hafter : r.machine.Inv := hrun ▸ engineRun_inv _ (offer_inv hinv rfl)
  rw [hphase]
  rcases hcases with ⟨rfl, herr⟩ | ⟨rfl, herr, hp, hbit⟩ | ⟨rfl, herr⟩
  · exact ⟨hafter, fun hf => (by cases hf), fun e he => .inl ⟨herr, (Option.some.inj he).symm⟩⟩
  · exact ⟨hafter, fun hf => (by cases hf), fun e he => .inr ⟨hp, herr, hbit, (Option.some.inj he).symm⟩⟩
  · exact ⟨hafter, fun _ => .inr herr, fun e he => by cases he⟩

theorem startPhase_reports (p : HostParams) (flags : Nat) {h : HostRun} (hinv : h.machine.Inv) :
    Reports p h (startPhase p flags h).1 (startPhase p flags h).2 := by
  have hstart := phase_reports p .start false hinv
  unfold startPhase
  split
  · next heq =>
    rw [heq] at hstart
    exact ⟨hstart.inv, fun hf => (by cases hf), hstart.failed⟩
  · next heq =>
    rw [heq] at hstart
    exact hstart.trans (phase_reports p _ true hstart.inv)

theorem dataPhase_reports (p : HostParams) (write : Bool) (buf : List Byte) {h : HostRun} (hinv : h.machine.Inv) :
    Reports p h (dataPhase p write buf h).1 (dataPhase p write buf h).2.2 := by
  induction buf generalizing h with
  | nil => exact .refl p hinv
  | cons b later ih =>
    have hbyte := phase_reports p (if write then .sendByte b else .recvByte) write hinv
    unfold dataPhase
    split
    · next heq =>
      rw [heq] at hbyte
      exact hbyte
    · next heq =>
      rw [heq] at hbyte
      exact hbyte.trans (ih hbyte.inv)

/-- `transfer` returns what its phases report, or the size. -/
theorem transfer_reports (p : HostParams) (buf : List Byte) (flags : Nat) {h : HostRun} (hinv : h.machine.Inv) :
    ∃ f, Reports p h f (transfer p buf flags h).run ∧ (transfer p buf flags h).ret = f.getD buf.length := by
  have hstart : Reports p h (if hasFlag flags fStart then startPhase p flags h else (none, h)).1
      (if hasFlag flags fStart then startPhase p flags h else (none, h)).2 := by
    split
    · exact startPhase_reports p flags hinv
    · exact .refl p hinv
  unfold transfer
  split
  · next heq =>
    rw [heq] at hstart
    exact ⟨_, hstart, rfl⟩
  · next r heq =>
    rw [heq] at hstart
    have hdata := hstart.trans (dataPhase_reports p (hasFlag flags fWrite) buf hstart.inv)
    split
    · next heq =>
      rw [heq] at hdata
      exact ⟨_, hdata, rfl⟩
    · next heq =>
      rw [heq] at hdata
      split
      · have hstop := hdata.trans (phase_reports p .stop false hdata.inv)
        split
        · next heq =>
          rw [heq] at hstop
          exact ⟨_, hstop, rfl⟩
        · next heq =>
          rw [heq] at hstop
          exact ⟨_, hstop, rfl⟩
      · exact ⟨_, hdata, rfl⟩

/-! ## The obligations of 45_host_transactions.md -/

/-- Settles O50: a word that decodes to a command is the word of that command, and `Exec` is the run `exec` describes. -/
theorem hostExecRunsTheCommand : Obligations.HostExecRunsTheCommand := by
  intro w i h hdecode
  obtain ⟨rfl, -⟩ := encodeIsTheOnlyWord w i hdecode
  exact ⟨exec_eq_runToIdle i h.machine, rfl, rfl⟩

/-- Settles O51: the transfer goes on through all its phases, and sends leave the buffer as it was. -/
theorem writeTransferIssuesItsCommands : Obligations.WriteTransferIssuesItsCommands := by
  intro p buf h hp hready hscl hsda
  have hall : ∀ k, k < 9 + (9 * buf.length + 1) → sclAt h.machine k = true := fun k hk => hscl k (by omega)
  obtain ⟨moved, r, hrun, hmoved, hr⟩ := transfer_of_high hp hready buf (fStart ||| fWrite ||| fStop) hall fun _ => hsda
  rw [hrun]
  refine ⟨rfl, ?_, hmoved.sent rfl⟩
  rw [hr.issued, List.append_assoc, List.append_assoc]
  rfl

/-- Settles O52: the transfer goes on through all its phases, and its RECV_BYTE commands sample SDA nine times each, after START's
check and the nine samples of the address frame. -/
theorem readTransferFillsTheBuffer : Obligations.ReadTransferFillsTheBuffer := by
  intro p buf h hp hready hscl hsda
  have hall : ∀ k, k < 9 + (9 * buf.length + 1) → sclAt h.machine k = true := fun k hk => hscl k (by omega)
  obtain ⟨moved, r, hrun, hmoved, hr⟩ := transfer_of_high hp hready buf (fStart ||| fRead ||| fStop) hall fun _ => hsda
  rw [hrun]
  refine ⟨rfl, hmoved.length, fun i j b hj hb => ?_, ?_⟩
  · rw [hmoved.received rfl i j b hj hb, Nat.add_assoc]
    rfl
  · rw [hr.issued, List.append_assoc, List.append_assoc, ← List.map_const']
    rfl

/-- Settles O53: each phase reports the failure of its last command, and goes on only without one. -/
theorem transferReturnsNoPartialCount : Obligations.TransferReturnsNoPartialCount := by
  intro p buf flags h hinv
  obtain ⟨f, hreports, hret⟩ := transfer_reports p buf flags hinv
  refine ⟨hreports.inv.err_le, ?_⟩
  rw [hret]
  cases f with
  | none =>
    exact .inl ⟨rfl, (hreports.went_on rfl).imp (congrArg HostRun.issued) id⟩
  | some e => exact .inr (hreports.failed e rfl)

/-- Settles O54: byte `j` of the list is the byte of place `j`. -/
theorem subaddressBytes : Obligations.SubaddressBytes := by
  intro p addr
  refine ⟨by simp [subaddr], fun j hj => ⟨fun horder => ?_, fun horder => ?_⟩⟩ <;> simp [subaddr, horder, hj]

/-- Settles O55: the first phase sends the sub-address and leaves the bus to the second, which moves the buffer. -/
theorem addressedTransfersIssueTheirCommands : Obligations.AddressedTransfersIssueTheirCommands := by
  intro p addr buf h hp hready hscl hsda
  rw [← (subaddressBytes p addr).1] at hscl
  have hall : ∀ k, k < 9 + (9 * (subaddr p addr).length + 0) + (0 + (9 * buf.length + 1)) → sclAt h.machine k = true :=
    fun k hk => hscl k (by omega)
  obtain ⟨_, r, hfirst, -, hr⟩ := transfer_of_high hp hready (subaddr p addr) (fStart ||| fWrite)
    (fun k hk => hall k (Nat.lt_add_right _ hk)) fun _ => hsda
  have hleft : ∀ k, k < 0 + (9 * buf.length + 1) → sclAt r.machine k = true := hr.high hall
  obtain ⟨_, u, hsend, -, hu⟩ := transfer_of_high hp hr.ready buf (fWrite ||| fStop) hleft nofun
  obtain ⟨_, v, hreceive, -, hv⟩ := transfer_of_high hp hr.ready buf (fRead ||| fStop) hleft nofun
  have hwrite : addrWrite p addr buf h = transfer p buf (fWrite ||| fStop) r := by simp [addrWrite, hfirst]
  have hreference : p.addrReadMode = .reference → addrRead p addr buf h = addrWrite p addr buf h := fun hmode => by
    simp [addrRead, addrWrite, hmode]
  have hintended : p.addrReadMode = .intended → addrRead p addr buf h = transfer p buf (fRead ||| fStop) r := fun hmode => by
    simp [addrRead, hfirst, hmode]
  refine ⟨by rw [hwrite, hsend], ?_, ?_, hreference, fun hmode => ?_⟩
  · rw [hwrite, hsend, hu.issued, hr.issued]
    simp [startWords, dataWords, stopWords, dataCommand, hasFlag, fStart, fRead, fWrite, fStop, encode]
  · cases hmode : p.addrReadMode with
    | reference => rw [hreference hmode, hwrite, hsend]
    | intended => rw [hintended hmode, hreceive]
  · rw [hintended hmode, hreceive, hv.issued, hr.issued]
    simp [startWords, dataWords, stopWords, dataCommand, hasFlag, fStart, fRead, fWrite, fStop, encode]

end Sys2Proof.Proofs

end

section
/-! SUPPORT and the settled statements of 60_exceptions.md. First what can fault, then the error and the arbitration loss every
command ends with, buses whose samples read low, and systems with the parameters no step writes; then the obligations. -/

namespace Sys2Proof.Proofs

open Sys2Proof.Machine Sys2Proof.Laws

/-! ## Faults (R246) -/

theorem hostRead_ne_fault {s : State} (herr : s.status.err ≤ 3#3) (off : BitVec 2) (size : Nat) (r : Fault) :
    hostRead off size s ≠ .fault r := by
  have hcode : ¬ 4#3 ≤ s.status.err := fun hle => absurd (BitVec.le_trans hle herr) (by decide)
  simp only [hostRead, if_neg hcode]
  split_ifs <;> exact nofun

theorem hostWrite_ne_fault (off : BitVec 2) (size : Nat) (v : Word) (s : State) (r : Fault) :
    hostWrite off size v s ≠ .fault r := by
  unfold hostWrite
  split_ifs <;> exact nofun

/-- No move faults while STATUS holds an error code of at most 3. -/
theorem takeEvent_ne_fault {s : State} (herr : s.status.err ≤ 3#3) (e : Event) (r : Fault) : takeEvent e s ≠ .fault r := by
  cases e with
  | command w =>
    obtain ⟨v, hv⟩ := takeEvent_command w s
    rw [hv]
    exact nofun
  | write off size v => exact hostWrite_ne_fault off size v s r
  | read off size => exact hostRead_ne_fault herr off size r
  | engine | rst level => exact nofun

/-! ## The error and the arbitration loss of every command (R251) -/

/-- The error code and ARB_LOST a command ends with. -/
structure Raised where
  err : BitVec 3
  arbLost : Bit

/-- What a command with one wait raises when it sends the bit `v` after it; one that sends none raises what it would with
`v = false`. -/
def waitRaised (v : Bit) (s : State) : Raised :=
  match waitSamples (sclAt s) 0 s.nPoll with
  | some _ => ⟨0#3, v && !sdaAt s 0⟩
  | none => ⟨2#3, false⟩

/-- What START raises, by its one SDA sample. -/
def startRaised (s : State) : Raised := ⟨if (s.sdaOut && sdaAt s 0) = true then 0#3 else 1#3, false⟩

/-- What a frame that comes to the ending given raises. -/
def Ending.raised (e : Ending) : Raised := ⟨e.err, e.arbLost⟩

/-- What each command raises, by the samples of its Environment. -/
def raised (s : State) : Instr → Raised
  | .recvBit | .recvAck | .stop | .sendAck => waitRaised false s
  | .sendBit b => waitRaised b s
  | .sendNack => waitRaised true s
  | .sendByte data => (sendEnding data s (nineWaits s)).raised
  | .sendAddr id r => (sendEnding (addressByte id r) s (nineWaits s)).raised
  | .recvByte => (recvEnding s (nineWaits s)).raised
  | .start => startRaised s
  | .release => ⟨0#3, false⟩

/-- The command answers a state with the error code and ARB_LOST given. -/
def EndsWith (i : Instr) (s : State) (e : Raised) : Prop :=
  ∃ t, exec i s = .next t ∧ t.status.err = e.err ∧ t.status.arbLost = e.arbLost

theorem endsWith_of_expand {i : Instr} {s : State} {e : Raised} (h : EndsWith i.expand s e) : EndsWith i s e := by
  rwa [EndsWith, exec_expand]

theorem endsWith_of_atFinish {i : Instr} {s t : State} {e : Ending} (hexec : exec i s = .next (finish t))
    (ht : AtFinish s e t) : EndsWith i s e.raised := ⟨_, hexec, ht.resErr, ht.arbAcc⟩

/-- A command with one wait, by the two outcomes of the wait. -/
theorem endsWith_waitRaised {i : Instr} {v : Bit} {s : State}
    (hdone : ∀ k, waitSamples (sclAt s) 0 s.nPoll = some k → EndsWith i s ⟨0#3, v && !sdaAt s 0⟩)
    (hlate : waitSamples (sclAt s) 0 s.nPoll = none → EndsWith i s ⟨2#3, false⟩) : EndsWith i s (waitRaised v s) := by
  unfold waitRaised
  split
  · exact hdone _ ‹_›
  · exact hlate ‹_›

section Results
variable {s : State} (h : Ready s)
include h

theorem recvBit_endsWith : EndsWith .recvBit s (waitRaised false s) :=
  endsWith_waitRaised (fun _ hw => ⟨_, (recvBit_done h hw).2, rfl, rfl⟩) fun hw => ⟨_, (recvBit_late h hw).2, rfl, rfl⟩

theorem sendBit_endsWith (b : Bit) : EndsWith (.sendBit b) s (waitRaised b s) :=
  endsWith_waitRaised (fun _ hw => ⟨_, (sendBit_done h b hw).2, rfl, rfl⟩) fun hw => ⟨_, (sendBit_late h b hw).2, rfl, rfl⟩

theorem stop_endsWith : EndsWith .stop s (waitRaised false s) := by
  refine endsWith_waitRaised (fun k hw => ?_) fun hw => ⟨_, (stop_late h hw).2, rfl, rfl⟩
  have hexec := (stop_done h hw).2
  rw [waited_eq] at hexec
  exact ⟨_, hexec, rfl, rfl⟩

theorem start_endsWith : EndsWith .start s (startRaised s) := by
  cases hsda : s.sdaOut && sdaAt s 0 with
  | true => exact ⟨_, (start_idle h hsda).2, (if_pos hsda).symm, rfl⟩
  | false => exact ⟨_, (start_conflict h hsda).2, (if_neg (Bool.eq_false_iff.mp hsda)).symm, rfl⟩

theorem sendFrame_endsWith {i : Instr} {data : Byte} (hi : frameByte i = some data) :
    EndsWith i s (sendEnding data s (nineWaits s)).raised := by
  obtain ⟨-, t, hexec, ht⟩ := sendFrame_command h hi
  exact endsWith_of_atFinish hexec ht

theorem recvByte_endsWith : EndsWith .recvByte s (recvEnding s (nineWaits s)).raised := by
  obtain ⟨-, t, hexec, ht⟩ := recvByte_command h
  exact endsWith_of_atFinish hexec ht

/-- Every command ends as `raised` says. -/
theorem exec_endsWith (i : Instr) : EndsWith i s (raised s i) := by
  cases i with
  | recvBit => exact recvBit_endsWith h
  | recvAck => exact endsWith_of_expand (recvBit_endsWith h)
  | sendBit b => exact sendBit_endsWith h b
  | sendAck => exact endsWith_of_expand (sendBit_endsWith h false)
  | sendNack => exact endsWith_of_expand (sendBit_endsWith h true)
  | sendByte data => exact sendFrame_endsWith h (i := .sendByte data) rfl
  | sendAddr id r => exact sendFrame_endsWith h (i := .sendAddr id r) rfl
  | recvByte => exact recvByte_endsWith h
  | start => exact start_endsWith h
  | stop => exact stop_endsWith h
  | release => exact ⟨_, (release_done h).2, rfl, rfl⟩

/-- An illegal word ends at once, with the state at its Finish (R245). -/
theorem runIllegal_eq {w : Word} (hw : isLegal w = false) : runIllegal w s = finish (accept w none s) := by
  rw [← (illegal_done h hw).2, offerWord, selectedBy_of_not_isLegal hw, runIllegal, runCommand]

end Results

theorem takeEvent_illegal {w : Word} (hw : isLegal w = false) (s : State) :
    takeEvent (.command w) s = .next (runIllegal w s) := by
  cases hd : decode w with
  | command i => simp [isLegal, hd] at hw
  | illegal why => simp [takeEvent, hd]

theorem waitRaised_err (v : Bit) (s : State) : (waitRaised v s).err = 0#3 ∨ (waitRaised v s).err = 2#3 := by
  unfold waitRaised
  split
  · exact .inl rfl
  · exact .inr rfl

theorem waitRaised_arbLost {v : Bit} {s : State} (h : (waitRaised v s).arbLost = true) : v = true := by
  unfold waitRaised at h
  split at h
  · exact (Bool.and_eq_true_iff.mp h).1
  · cases h

theorem startRaised_err (s : State) : (startRaised s).err = 0#3 ∨ (startRaised s).err = 1#3 := by
  unfold startRaised
  split
  · exact .inl rfl
  · exact .inr rfl

theorem sendEnding_err (data : Byte) (s : State) (w : FrameWaits) :
    (sendEnding data s w).err = 0#3 ∨ (sendEnding data s w).err = 2#3 := by
  cases w with
  | all total => exact .inl rfl
  | timeout j taken => exact .inr rfl

theorem recvEnding_err (s : State) (w : FrameWaits) : (recvEnding s w).err = 0#3 ∨ (recvEnding s w).err = 2#3 := by
  cases w with
  | all total => exact .inl rfl
  | timeout j taken => exact .inr rfl

/-- The command has a clock-stretch wait. -/
def waits (i : Instr) : Prop := i ≠ .start ∧ i ≠ .release

/-- The command can send a 1 and read it back (R140). -/
def sendsOne (i : Instr) : Prop :=
  i = .sendBit true ∨ i = .sendNack ∨ (∃ data, i = .sendByte data) ∨ ∃ id r, i = .sendAddr id r

/-- The errors of each command: a conflict is START's, a timeout is one of a command that waits. -/
theorem raised_err (s : State) (i : Instr) :
    (raised s i).err = 0#3 ∨ ((raised s i).err = 1#3 ∧ i = .start) ∨ ((raised s i).err = 2#3 ∧ waits i) := by
  have hwaits : ∀ {err : BitVec 3}, waits i → err = 0#3 ∨ err = 2#3 →
      err = 0#3 ∨ (err = 1#3 ∧ i = .start) ∨ (err = 2#3 ∧ waits i) := fun hi herr => herr.imp id fun h => .inr ⟨h, hi⟩
  cases i with
  | recvBit | recvAck | stop | sendAck | sendBit b | sendNack => exact hwaits ⟨nofun, nofun⟩ (waitRaised_err _ s)
  | sendByte data | sendAddr id r => exact hwaits ⟨nofun, nofun⟩ (sendEnding_err _ s _)
  | recvByte => exact hwaits ⟨nofun, nofun⟩ (recvEnding_err s _)
  | start => exact (startRaised_err s).imp id fun h => .inl ⟨h, rfl⟩
  | release => exact .inl rfl

/-- Only a command that can send a 1 loses arbitration. -/
theorem sendsOne_of_raised_arbLost {s : State} {i : Instr} (h : (raised s i).arbLost = true) : sendsOne i := by
  cases i with
  | recvBit | recvAck | stop | sendAck => cases waitRaised_arbLost (v := false) h
  | sendBit b =>
    obtain rfl : b = true := waitRaised_arbLost h
    exact .inl rfl
  | sendNack => exact .inr (.inl rfl)
  | sendByte data => exact .inr (.inr (.inl ⟨data, rfl⟩))
  | sendAddr id r => exact .inr (.inr (.inr ⟨id, r, rfl⟩))
  | recvByte => cases (recvEnding_bit s (nineWaits s)).2.symm.trans h
  | start | release => cases h

/-! ## A line held low by another device (R37) -/

theorem waitSamples_of_low {f : Nat → Bit} (hf : ∀ k, f k = false) (a n : Nat) : waitSamples f a n = none := by
  rcases waitSamples_cases f a n with ⟨j, -, -, hhigh, -⟩ | ⟨hnone, -⟩
  · cases (hf _).symm.trans hhigh
  · exact hnone

theorem nineWaits_of_low {s : State} (hscl : ∀ k, sclAt s k = false) : nineWaits s = .timeout 0 0 := by
  rw [nineWaits, frameWaits, waitSamples_of_low hscl]

/-- With SCL held low every command that waits times out. -/
theorem raised_err_of_scl_low {s : State} (hscl : ∀ k, sclAt s k = false) {i : Instr} (hi : waits i) :
    (raised s i).err = 2#3 := by
  obtain ⟨hstart, hrelease⟩ := hi
  have hwait : ∀ v, (waitRaised v s).err = 2#3 := fun v => by rw [waitRaised, waitSamples_of_low hscl]
  cases i with
  | recvBit | recvAck | stop | sendAck | sendBit b | sendNack => exact hwait _
  | sendByte data | sendAddr id r | recvByte =>
    rw [raised, nineWaits_of_low hscl]
    rfl
  | start => exact absurd rfl hstart
  | release => exact absurd rfl hrelease

theorem lostIn_of_sda_low {s : State} (hsda : ∀ k, sdaAt s k = false) {data : Byte} (hdata : data ≠ 0#8) :
    lostIn data s 8 = true := by
  by_contra hlost
  refine hdata (eq_of_dataBit fun j hj => ?_)
  have hbits : ∀ k < 8, dataBit data k = false := by simpa [lostIn, hsda] using hlost
  rw [hbits j hj, dataBit, BitVec.getLsbD_zero]

/-- A command that sends a 1. -/
def hasOne (i : Instr) : Prop :=
  i = .sendBit true ∨ i = .sendNack ∨ (∃ data, i = .sendByte data ∧ data ≠ 0#8)
    ∨ ∃ id r, i = .sendAddr id r ∧ addressByte id r ≠ 0#8

/-- With SDA held low and SCL high at every wait, every command that sends a 1 loses arbitration. -/
theorem raised_arbLost_of_sda_low {s : State} (hn : 1 ≤ s.nPoll) (hscl : ∀ k, k < 9 → sclAt s k = true)
    (hsda : ∀ k, sdaAt s k = false) {i : Instr} (hi : hasOne i) : (raised s i).arbLost = true := by
  have hslot : (waitRaised true s).arbLost = true := by
    rw [waitRaised, waitSamples_of_high hn (hscl 0 (by omega)), hsda]
    rfl
  have hframe : nineWaits s = .all 9 := frameWaits_of_high hn 0 (by simpa using hscl)
  rcases hi with rfl | rfl | ⟨data, rfl, hdata⟩ | ⟨id, r, rfl, hdata⟩
  · exact hslot
  · exact hslot
  · rw [raised, hframe]
    exact lostIn_of_sda_low hsda hdata
  · rw [raised, hframe]
    exact lostIn_of_sda_low hsda hdata

/-- A ready state whose SCL another device holds low. -/
def sclHeldLow : State := { State.reset with sclPeers := false }

/-- A ready state whose SDA another device holds low, with SCL high at the nine waits of a frame. -/
def sdaHeldLow : State := { State.reset with sdaPeers := false, sclIn := List.replicate 9 true }

theorem one_le_nPoll_reset : 1 ≤ State.reset.nPoll := resetMeetsTheInvariant.nPoll_pos

theorem ready_sclHeldLow : Ready sclHeldLow := ⟨rfl, rfl, one_le_nPoll_reset⟩

theorem ready_sdaHeldLow : Ready sdaHeldLow := ⟨rfl, rfl, one_le_nPoll_reset⟩

theorem sclAt_sdaHeldLow : ∀ k, k < 9 → sclAt sdaHeldLow k = true := by decide

/-! ## Systems (R262) -/

/-- Another member of the system on the bus drives the line low, so not all of them release it. -/
theorem released_of_low {line : State → Bit} {sys : System} {j k bus : Nat} {other : Instance} (hjk : j ≠ k)
    (hj : sys[j]? = some other) (hbus : other.bus = bus) (hlow : line other.state = false) :
    sys.released line k bus = false :=
  List.all_eq_false.mpr ⟨other, List.mem_eraseIdx_iff_getElem?.mpr ⟨j, hjk, hj⟩, by simp [hbus, hlow]⟩

/-- With no other member of the system on the bus, none of them drives the line low. -/
theorem released_of_alone (line : State → Bit) {sys : System} {k bus : Nat}
    (halone : ∀ j other, j ≠ k → sys[j]? = some other → other.bus ≠ bus) : sys.released line k bus = true := by
  refine List.all_eq_true.mpr fun other hmem => ?_
  obtain ⟨j, hjk, hj⟩ := List.mem_eraseIdx_iff_getElem?.mp hmem
  simp [halone j other hjk hj]

/-- The stream of free draws and N_POLL, which each I2CBB of a system has for itself (logs 2 and 3). -/
structure KeepsParameters (s t : State) : Prop where
  freeStream : t.freeStream = s.freeStream
  nPoll : t.nPoll = s.nPoll

theorem offer_keepsParameters (w : Word) (sel : Option StepList) (s : State) : KeepsParameters s (offer w sel s) := by
  rcases offer_cases w sel s with ⟨-, h⟩ | ⟨-, -, h⟩ | ⟨-, -, h⟩ <;> rw [h]
  · exact ⟨rfl, rfl⟩
  · exact ⟨rfl, rfl⟩
  · exact ⟨accept_freeStream .., accept_nPoll ..⟩

theorem setRst_keepsParameters (level : Bit) (s : State) : KeepsParameters s (setRst level s) := by
  unfold setRst
  split <;> exact ⟨rfl, rfl⟩

theorem takeEvent_keepsParameters {e : Event} {s t : State} (ht : takeEvent e s = .next t) : KeepsParameters s t := by
  cases e with
  | command w =>
    obtain ⟨v, hv⟩ := takeEvent_command w s
    cases hv.symm.trans ht
    have hkeeps := runCommand_keepsInputs v (selectedBy w) s
    exact ⟨hkeeps.freeStream, hkeeps.nPoll⟩
  | write off size v =>
    obtain ⟨-, ⟨-, rfl⟩ | ⟨-, rfl⟩⟩ := hostWrite_cases ht
    · exact offer_keepsParameters ..
    · exact ⟨rfl, rfl⟩
  | read off size => obtain ⟨-, ⟨-, w, rfl⟩ | ⟨-, rfl⟩⟩ := hostRead_cases ht <;> exact ⟨rfl, rfl⟩
  | engine =>
    cases ht
    exact ⟨engineStep_freeStream s, engineStep_nPoll s⟩
  | rst level =>
    cases ht
    exact setRst_keepsParameters level s

/-- No step changes the parameters of an I2CBB. -/
theorem step_keepsParameters {s t : State} (ht : step s = .next t) : KeepsParameters s t := by
  cases hp : s.pending with
  | nil =>
    rw [step_nil hp] at ht
    cases ht
    exact ⟨engineStep_freeStream s, engineStep_nPoll s⟩
  | cons e later =>
    rw [step_cons hp] at ht
    obtain ⟨hstream, hpoll⟩ := takeEvent_keepsParameters ht
    exact ⟨hstream, hpoll⟩

/-! ## The obligations of 60_exceptions.md -/

/-- Settles O13: the write is discarded, and a discarded write makes no difference to the Engine. -/
theorem overrunLeavesTheCommandUnaffected : Obligations.OverrunLeavesTheCommandUnaffected := by
  intro s w n hr hb
  rw [offerWord, offer_busy w _ hr hb, engineRun_discard]
  exact ⟨rfl, rfl⟩

/-- Settles O34: an accepted illegal word is at Finish with `RES_ERR = 3`, and Finish is the whole run. -/
theorem illegalWordFinishesWithError3 : Obligations.IllegalWordFinishesWithError3 := by
  intro w later s h hw hp
  have hready : Ready { s with pending := later } := h
  refine ⟨(illegal_done h hw).1, finish (accept w none { s with pending := later }), ?_,
    rfl, rfl, rfl, rfl, rfl, rfl, rfl, rfl, rfl, rfl, rfl⟩
  rw [step_cons hp, takeEvent_illegal hw, runIllegal_eq hready hw]

/-- Settles O35: by what each command raises, with a line held low by another device to show each error. -/
theorem errorsEachCommandCanRaise : Obligations.ErrorsEachCommandCanRaise := by
  refine ⟨fun i s t h ht => ?_, ?_, fun i hstart hrelease => ?_, fun i hi => ?_, fun w s h hw => ?_⟩
  · obtain ⟨u, hexec, herr, hlost⟩ := exec_endsWith h i
    cases hexec.symm.trans ht
    rw [herr, hlost]
    rcases raised_err s i with h0 | ⟨h1, hi⟩ | ⟨h2, hi⟩
    · rw [h0]
      exact ⟨.inl rfl, nofun, nofun, sendsOne_of_raised_arbLost⟩
    · rw [h1]
      exact ⟨.inr (.inl rfl), fun _ => hi, nofun, sendsOne_of_raised_arbLost⟩
    · rw [h2]
      exact ⟨.inr (.inr rfl), nofun, fun _ => hi, sendsOne_of_raised_arbLost⟩
  · obtain ⟨t, hexec, herr, -⟩ := exec_endsWith ready_sdaHeldLow .start
    exact ⟨_, t, ready_sdaHeldLow, hexec, herr⟩
  · obtain ⟨t, hexec, herr, -⟩ := exec_endsWith ready_sclHeldLow i
    exact ⟨_, t, ready_sclHeldLow, hexec, herr.trans (raised_err_of_scl_low (sclAt_peers_low rfl) ⟨hstart, hrelease⟩)⟩
  · obtain ⟨t, hexec, -, hlost⟩ := exec_endsWith ready_sdaHeldLow i
    exact ⟨sdaHeldLow, t, ready_sdaHeldLow, hexec,
      hlost.trans (raised_arbLost_of_sda_low (s := sdaHeldLow) one_le_nPoll_reset sclAt_sdaHeldLow (sdaAt_peers_low rfl) hi)⟩
  · rw [runIllegal_eq h hw]
    exact ⟨rfl, rfl⟩

/-- Settles O45: the invariant keeps the codes at most 3, and only a read of a higher one faults. -/
theorem errorCodesAbove3NeverAppear : Obligations.ErrorCodesAbove3NeverAppear := by
  intro s h
  refine ⟨fun r => ?_, fun t ht => (stepKeepsTheInvariant s t h ht).err_le⟩
  cases hp : s.pending with
  | nil =>
    rw [step_nil hp]
    exact nofun
  | cons e later =>
    rw [step_cons hp]
    exact takeEvent_ne_fault (s := { s with pending := later }) h.err_le e r

/-- Settles O58: the output of the other I2CBB is part of the AND every sample reads (R36, R37). -/
theorem instancesOnOneBusSeeEachOther : Obligations.InstancesOnOneBusSeeEachOther := by
  refine ⟨fun sys j k other i hjk hj _ hbus => ?_, fun sys k i halone => ?_⟩
  · have hscl : other.state.sclOut = false → ∀ n, sclAt (sys.facing k i) n = false := fun hlow =>
      sclAt_peers_low (released_of_low (line := (·.sclOut)) hjk hj hbus hlow)
    have hsda : other.state.sdaOut = false → ∀ n, sdaAt (sys.facing k i) n = false := fun hlow =>
      sdaAt_peers_low (released_of_low (line := (·.sdaOut)) hjk hj hbus hlow)
    refine ⟨hscl, hsda, fun h hlow => ?_, fun h hlow => ?_⟩
    · have hstart := startChecksSda (sys.facing k i) h
      rw [if_neg (by simp [hsda hlow])] at hstart
      exact hstart.2
    · have hrecv := recvBitSamplesSda .recvBit (sys.facing k i) (.inl rfl) h
      rw [waitSamples_of_low (hscl hlow)] at hrecv
      exact hrecv.2
  · rw [System.facing, released_of_alone _ halone, released_of_alone _ halone]

/-- Settles O37: by the error code, then by the command. -/
theorem referenceReturnValue : Obligations.ReferenceReturnValue := by
  intro st i
  refine ⟨fun herr => if_pos herr, fun herr => ⟨fun hi => ?_, fun hi => ?_⟩⟩
  · have hbit : returnsBit i = true := by rcases hi with rfl | ⟨_, rfl⟩ | ⟨_, _, rfl⟩ <;> rfl
    rw [ret, if_neg (not_not.mpr herr), if_pos hbit]
    cases st.bit <;> rfl
  · have hbit : returnsBit i = false := by rcases hi with ⟨_, rfl⟩ | rfl | rfl | rfl | rfl <;> rfl
    rw [ret, if_neg (not_not.mpr herr), hbit]
    rfl

/-- Settles O57: a step of the system writes back one I2CBB, whose parameters no step changes. -/
theorem instancesShareNoState : Obligations.InstancesShareNoState := by
  refine ⟨fun sys after k h => ?_, by simp [System.reset], Nat.le_add_left 1 _, fun k i hi => ?_⟩
  · obtain ⟨i, t, hk, ht, rfl⟩ := stepInstance_cases h
    obtain ⟨hlt, -⟩ := List.getElem?_eq_some_iff.mp hk
    obtain ⟨hstream, hpoll⟩ := step_keepsParameters ht
    exact ⟨List.length_set, fun j hj => List.getElem?_set_ne hj.symm,
      i, t, hk, ht, List.getElem?_set_self hlt, hstream, hpoll⟩
  · rw [System.reset, List.getElem?_map, Option.map_eq_some_iff] at hi
    obtain ⟨m, hm, rfl⟩ := hi
    obtain ⟨_, hget⟩ := List.getElem?_eq_some_iff.mp hm
    rw [← hget, List.getElem_range]
    rfl

end Sys2Proof.Proofs

end

section
/-! SUPPORT and the settled statements of 70_reset_and_hazards.md. First when the Engine becomes idle and what STATUS shows until then,
what reset holds and ends, and where each command sets SDA; then the agenda, which the Engine does not read, and runs with the
Host's moves; then the obligations. -/

namespace Sys2Proof.Proofs

open Sys2Proof.Machine Sys2Proof.Laws

/-! ## When the Engine becomes idle (R302) -/

theorem nextToken_eq_none_iff {s : State} (hr : s.rst = false) : nextToken s = none ↔ s.upc = .idle := by
  refine ⟨fun h => ?_, fun h => nextToken_of_held_or_idle (.inr h)⟩
  cases hu : s.upc with
  | idle => rfl
  | fin => cases (nextToken_fin hr hu).symm.trans h
  | run st rest => cases (nextToken_run hr hu).symm.trans h

theorem stepsToIdle_le_cost (s : State) : stepsToIdle s ≤ s.upc.cost s.nPoll :=
  (length_trace_le _ s).trans (remainingSteps_le_cost s)

/-- The Engine is idle after exactly the engine steps of its trace to idle. -/
theorem upc_engineRun_iff {s : State} (hr : s.rst = false) {m : Nat} :
    (engineRun m s).upc = .idle ↔ stepsToIdle s ≤ m := by
  rcases Nat.lt_or_ge m (s.upc.cost s.nPoll) with hm | hm
  · rw [← nextToken_eq_none_iff (by rw [engineRun_rst, hr]), ← getElem?_trace hm, List.getElem?_eq_none_iff]
    rfl
  · rw [engineRun_eq_runToIdle hr hm]
    exact iff_of_true (runToIdle_upc hr) ((stepsToIdle_le_cost s).trans hm)

/-! ## STATUS along a run (R46, R47, R49) -/

/-- A command in progress shows BUSY, and one that has ended by its Finish shows DONE. -/
def BusyUntilDone (s : State) : Prop :=
  if s.upc = .idle then s.status.busy = false ∧ s.status.done = true else s.status.busy = true

theorem microStep_upc_ne_idle (st : MicroStep) (rest : StepList) (s : State) : (microStep st rest s).upc ≠ .idle := by
  rcases microStep_cases st rest s with ⟨v, heq, hv⟩ | ⟨-, -, heq⟩ | ⟨-, heq⟩ <;> rw [heq]
  · rcases doWork_upc_cases st.after v with ⟨hu, -⟩ | ⟨hu, -⟩ <;> rw [hu]
    · rw [hv.upc, atPrimitive_upc]
      exact ofList_ne_idle rest
    · exact nofun
  · exact nofun
  · exact nofun

theorem busyUntilDone_engineStep {s : State} (h : BusyUntilDone s) : BusyUntilDone (engineStep s) := by
  rcases engineStep_cases s with ⟨-, heq⟩ | ⟨-, -, heq⟩ | ⟨st, rest, -, hu, heq⟩ <;> rw [heq]
  · exact h
  · exact ⟨rfl, rfl⟩
  · rw [BusyUntilDone, if_neg (by simp [hu])] at h
    rwa [BusyUntilDone, if_neg (microStep_upc_ne_idle st rest s), microStep_status]

theorem busyUntilDone_engineRun (n : Nat) {s : State} (h : BusyUntilDone s) : BusyUntilDone (engineRun n s) := by
  induction n generalizing s with
  | zero => exact h
  | succ n ih => exact ih (busyUntilDone_engineStep h)

theorem accept_upc_ne_idle (w : Word) (sel : Option StepList) (s : State) : (accept w sel s).upc ≠ .idle := by
  cases sel with
  | none => exact nofun
  | some l => exact ofList_ne_idle l

theorem busyUntilDone_accept (w : Word) (sel : Option StepList) (s : State) : BusyUntilDone (accept w sel s) := by
  rw [BusyUntilDone, if_neg (accept_upc_ne_idle w sel s), accept_status]
  rfl

theorem BusyUntilDone.of_idle {s : State} (h : BusyUntilDone s) (hu : s.upc = .idle) :
    s.status.busy = false ∧ s.status.done = true := by
  rwa [BusyUntilDone, if_pos hu] at h

theorem BusyUntilDone.of_not_idle {s : State} (h : BusyUntilDone s) (hu : s.upc ≠ .idle) : s.status.busy = true := by
  rwa [BusyUntilDone, if_neg hu] at h

/-- A command that ends without a reset has had its Finish. -/
theorem BusyUntilDone.done_of_not_busy {s : State} (h : BusyUntilDone s) (hb : s.status.busy = false) :
    s.status.done = true :=
  (h.of_idle (by_contra fun hu => by simp [h.of_not_idle hu] at hb)).2

theorem busyUntilDone_of_inv {s : State} (h : s.Inv) (hb : s.status.busy = true) : BusyUntilDone s := by
  rwa [BusyUntilDone, if_neg (h.busy_iff.mp hb)]

/-- No command accepted is longer than the longest (R301). -/
theorem cost_accept_le {s : State} (hn : 1 ≤ s.nPoll) (w : Word) :
    (accept w (selectedBy w) s).upc.cost s.nPoll ≤ 54 + 9 * s.nPoll := by
  cases hd : decode w with
  | command i =>
    rw [selectedBy_command hd, accept_some_upc]
    exact cost_stepListOf_le hn i
  | illegal why =>
    rw [selectedBy_illegal hd, accept_none_upc, cost_fin]
    omega

/-! ## Reset (R280) -/

theorem not_rst_of_busy {s : State} (h : s.Inv) (hb : s.status.busy = true) : s.rst = false := by
  by_contra hr
  have hheld := h.reset_held (Bool.eq_true_of_not_eq_false hr)
  rw [← hheld] at hb
  cases hb

theorem status_word_reset : Status.reset.word = 0x0000#16 := by decide

theorem offer_held {s : State} (hr : s.rst = true) (w : Word) (sel : Option StepList) : offer w sel s = s := if_pos hr

theorem runCommand_held {s : State} (hr : s.rst = true) (w : Word) (sel : Option StepList) : runCommand w sel s = s := by
  rw [runCommand, offer_held hr, runToIdle, engineRun_fixed (engineStep_held hr)]

/-- While the reset input is asserted no move changes a register that reset writes. -/
theorem resetRegisters_of_held {e : Event} {s t : State} (hheld : resetRegisters s = s) (hr : s.rst = true)
    (ht : takeEvent e s = .next t) : resetRegisters t = t := by
  cases e with
  | command w =>
    obtain ⟨v, hv⟩ := takeEvent_command w s
    cases hv.symm.trans ht
    rwa [runCommand_held hr]
  | write off size v =>
    obtain ⟨-, ⟨-, rfl⟩ | ⟨-, rfl⟩⟩ := hostWrite_cases ht
    · rwa [offerWord, offer_held hr]
    · exact hheld
  | read off size =>
    obtain ⟨-, ⟨-, w, rfl⟩ | ⟨-, rfl⟩⟩ := hostRead_cases ht
    · exact congrArg (reply w) hheld
    · exact congrArg (fun u => reply _ (drawSda (drawScl u))) hheld
  | engine =>
    cases ht
    rwa [engineStep_held hr]
  | rst level =>
    cases ht
    rw [setRst, hr, Bool.or_true]
    rfl

/-- A move that ends a command without a Finish is an assertion of the reset input. -/
theorem done_or_reset_of_not_busy {e : Event} {s t : State} (h : s.Inv) (hb : s.status.busy = true)
    (ht : takeEvent e s = .next t) (hb' : t.status.busy = false) : t.status.done = true ∨ e = .rst true := by
  have hr := not_rst_of_busy h hb
  cases e with
  | command w =>
    obtain ⟨v, hv⟩ := takeEvent_command w s
    cases hv.symm.trans ht
    rw [runCommand, offer_busy _ _ hr hb] at hb' ⊢
    exact .inl ((busyUntilDone_engineRun _ (busyUntilDone_of_inv (discard_inv h hr) hb)).done_of_not_busy hb')
  | write off size v =>
    obtain ⟨-, ⟨-, rfl⟩ | ⟨-, rfl⟩⟩ := hostWrite_cases ht
    · rw [offerWord, offer_busy _ _ hr hb] at hb'
      cases hb.symm.trans hb'
    · cases hb.symm.trans hb'
  | read off size =>
    obtain ⟨-, ⟨-, w, rfl⟩ | ⟨-, rfl⟩⟩ := hostRead_cases ht <;> cases hb.symm.trans hb'
  | engine =>
    cases ht
    exact .inl ((busyUntilDone_engineStep (busyUntilDone_of_inv h hb)).done_of_not_busy hb')
  | rst level =>
    cases level with
    | true => exact .inr rfl
    | false =>
      cases ht
      rw [setRst, hr] at hb'
      cases hb.symm.trans hb'

/-! ## Where each command sets SDA (R292) -/

/-- Whether a SetSDA of the command may come with SCL_OUT at the level given (R292; RELEASE's by R195). -/
def maySetSda : Instr → Bit → BitSrc → Bool
  | .release, scl, src => scl && src == .const true
  | .start, scl, src => !scl || src == .const false
  | .stop, scl, src => !scl || src == .const true
  | .recvBit, scl, _ | .sendBit _, scl, _ | .sendByte _, scl, _ | .recvByte, scl, _ | .sendAddr _ _, scl, _
  | .recvAck, scl, _ | .sendAck, scl, _ | .sendNack, scl, _ => !scl

/-- Every SetSDA of a step list comes when the command may do it, when the list begins with SCL_OUT at the level given. -/
def sdaSetsAllowed (i : Instr) : Bit → StepList → Bool
  | _, [] => true
  | scl, st :: rest =>
    match st.prim with
    | .setScl v => sdaSetsAllowed i v rest
    | .setSda src => maySetSda i scl src && sdaSetsAllowed i scl rest
    | .settle | .pollScl | .readSda => sdaSetsAllowed i scl rest

theorem stepListOf_sdaSetsAllowed {i : Instr} {s : State} (h : precondition i s = true) :
    sdaSetsAllowed i s.sclOut (stepListOf i) = true := by
  have hlow : (!s.sclOut) = true → s.sclOut = false := by simp
  cases i with
  | recvBit | sendBit | sendByte | recvByte | sendAddr | recvAck | sendAck | sendNack | stop => rw [hlow h]; rfl
  | start => cases s.sclOut <;> rfl
  | release => rfl

/-- The steps left of a command in progress set SDA when the command may. -/
def SetsSdaSafely (i : Instr) (s : State) : Prop :=
  match s.upc with
  | .run st rest => sdaSetsAllowed i s.sclOut (st :: rest) = true
  | .fin | .idle => True

theorem setsSdaSafely_doWork {i : Instr} {s : State} {rest : StepList} (ws : List Work) (hu : s.upc = Upc.ofList rest)
    (h : sdaSetsAllowed i s.sclOut rest = true) : SetsSdaSafely i (doWork ws s) := by
  unfold SetsSdaSafely
  rcases doWork_upc_cases ws s with ⟨hu', -⟩ | ⟨hu', -⟩ <;> rw [hu']
  · rw [hu]
    cases rest with
    | nil => trivial
    | cons st rest => rwa [Upc.ofList, doWork_sclOut]
  · trivial

theorem setsSdaSafely_microStep {i : Instr} {s : State} {st : MicroStep} {rest : StepList}
    (h : sdaSetsAllowed i s.sclOut (st :: rest) = true) : SetsSdaSafely i (microStep st rest s) := by
  cases hprim : st.prim with
  | setScl v =>
    rw [microStep_setScl rest s hprim]
    exact setsSdaSafely_doWork st.after rfl (by simpa [sdaSetsAllowed, hprim] using h)
  | setSda src =>
    obtain ⟨-, hrest⟩ : maySetSda i s.sclOut src = true ∧ sdaSetsAllowed i s.sclOut rest = true := by
      simpa [sdaSetsAllowed, hprim] using h
    rw [microStep_setSda rest s hprim]
    exact setsSdaSafely_doWork st.after rfl (by simpa using hrest)
  | settle =>
    rw [microStep_settle rest s hprim]
    exact setsSdaSafely_doWork st.after rfl (by simpa [sdaSetsAllowed, hprim] using h)
  | readSda =>
    rw [microStep_readSda rest s hprim]
    exact setsSdaSafely_doWork st.after rfl (by simpa [sdaSetsAllowed, hprim] using h)
  | pollScl =>
    have hrest : sdaSetsAllowed i s.sclOut rest = true := by simpa [sdaSetsAllowed, hprim] using h
    rw [microStep_pollScl rest s hprim]
    rcases pollScl_cases st rest (atPrimitive st rest s) with ⟨-, heq⟩ | ⟨-, -, heq⟩ | ⟨-, -, heq⟩ <;> rw [heq]
    · exact setsSdaSafely_doWork st.after rfl (by simpa using hrest)
    · simpa [SetsSdaSafely, sdaSetsAllowed, hprim] using hrest
    · trivial

theorem setsSdaSafely_engineStep {i : Instr} {s : State} (h : SetsSdaSafely i s) : SetsSdaSafely i (engineStep s) := by
  rcases engineStep_cases s with ⟨-, heq⟩ | ⟨-, -, heq⟩ | ⟨st, rest, -, hu, heq⟩ <;> rw [heq]
  · exact h
  · trivial
  · rw [SetsSdaSafely, hu] at h
    exact setsSdaSafely_microStep h

theorem setsSdaSafely_engineRun (n : Nat) {i : Instr} {s : State} (h : SetsSdaSafely i s) :
    SetsSdaSafely i (engineRun n s) := by
  induction n generalizing s with
  | zero => exact h
  | succ n ih => exact ih (setsSdaSafely_engineStep h)

/-- A SetSDA is one that the command may do at the level SCL_OUT has. -/
theorem SetsSdaSafely.allowed {i : Instr} {s : State} {v : Bit} (h : SetsSdaSafely i s)
    (htok : nextToken s = some (.d v)) :
    ∃ src, maySetSda i s.sclOut src = true ∧ ∀ c, src = .const c → v = c := by
  rcases engineStep_cases s with ⟨hidle, -⟩ | ⟨hr, hu, -⟩ | ⟨st, rest, hr, hu, -⟩
  · cases (nextToken_of_held_or_idle hidle).symm.trans htok
  · cases (nextToken_fin hr hu).symm.trans htok
  · rw [SetsSdaSafely, hu] at h
    rw [nextToken_run hr hu] at htok
    cases hprim : st.prim with
    | setSda src =>
      rw [hprim] at htok
      cases htok
      obtain ⟨hmay, -⟩ : maySetSda i s.sclOut src = true ∧ sdaSetsAllowed i s.sclOut rest = true := by
        simpa [sdaSetsAllowed, hprim] using h
      exact ⟨src, hmay, fun c hc => by rw [hc, BitSrc.value]⟩
    | setScl | settle | pollScl | readSda =>
      rw [hprim] at htok
      cases htok

/-! ## The agenda and the Engine -/

/-- The coming moves go to `p`: no engine step and no offer reads them. -/
def withPending (p : List Event) (s : State) : State := { s with pending := p }

section Agenda
variable (p : List Event) (s : State)

theorem withPending_self {s : State} {p : List Event} (h : s.pending = p) : withPending p s = s := by
  rw [← h]
  rfl

theorem work_withPending (w : Work) : w.apply (withPending p s) = withPending p (w.apply s) := by
  cases w with
  | checkArb v => exact (apply_ite (withPending p) ((v.value s && !s.smp) = true) { s with arbAcc := true } s).symm
  | checkIdle => exact (apply_ite (withPending p) (s.smp = true) s (raise .busConflict s)).symm
  | loadData | loadAddr | startWait | returnBit | shiftIn | nextBit | markReceived => rfl

theorem doWork_withPending (ws : List Work) : doWork ws (withPending p s) = withPending p (doWork ws s) := by
  induction ws generalizing s with
  | nil => rfl
  | cons w ws ih => rw [doWork_cons, work_withPending, ih, doWork_cons]

theorem pollScl_withPending (st : MicroStep) (rest : StepList) :
    pollScl st rest (withPending p s) = withPending p (pollScl st rest s) := by
  simp only [pollScl, apply_ite (withPending p), ← doWork_withPending]
  rfl

theorem atPrimitive_withPending (st : MicroStep) (rest : StepList) :
    atPrimitive st rest (withPending p s) = withPending p (atPrimitive st rest s) := by
  rw [atPrimitive, doWork_withPending]
  rfl

theorem microStep_withPending (st : MicroStep) (rest : StepList) :
    microStep st rest (withPending p s) = withPending p (microStep st rest s) := by
  cases hprim : st.prim with
  | setScl v =>
    rw [microStep_setScl _ _ hprim, microStep_setScl _ _ hprim, atPrimitive_withPending, ← doWork_withPending]
    rfl
  | setSda v =>
    rw [microStep_setSda _ _ hprim, microStep_setSda _ _ hprim, atPrimitive_withPending, ← doWork_withPending]
    rfl
  | settle =>
    rw [microStep_settle _ _ hprim, microStep_settle _ _ hprim, atPrimitive_withPending, doWork_withPending]
  | readSda =>
    rw [microStep_readSda _ _ hprim, microStep_readSda _ _ hprim, atPrimitive_withPending, ← doWork_withPending]
    rfl
  | pollScl => rw [microStep_pollScl _ _ hprim, microStep_pollScl _ _ hprim, atPrimitive_withPending, pollScl_withPending]

theorem engineStep_withPending : engineStep (withPending p s) = withPending p (engineStep s) := by
  cases hr : s.rst with
  | true => rw [engineStep_held hr, engineStep_held (s := withPending p s) hr]
  | false =>
    cases hu : s.upc with
    | idle => rw [engineStep_idle hu, engineStep_idle (s := withPending p s) hu]
    | fin =>
      rw [engineStep_fin hr hu, engineStep_fin (s := withPending p s) hr hu]
      rfl
    | run st rest => rw [engineStep_run hr hu, engineStep_run (s := withPending p s) hr hu, microStep_withPending]

theorem engineRun_withPending (n : Nat) : engineRun n (withPending p s) = withPending p (engineRun n s) := by
  induction n generalizing s with
  | zero => rfl
  | succ n ih => rw [engineRun_succ, engineStep_withPending, ih, engineRun_succ]

theorem runToIdle_withPending : runToIdle (withPending p s) = withPending p (runToIdle s) := engineRun_withPending ..

theorem offerWord_withPending (w : Word) : offerWord w (withPending p s) = withPending p (offerWord w s) := by
  have haccept : accept w (selectedBy w) (withPending p s) = withPending p (accept w (selectedBy w) s) := by
    cases selectedBy w <;> rfl
  rw [offerWord, offerWord, offer, offer, haccept, apply_ite (withPending p), apply_ite (withPending p)]
  rfl

theorem nextToken_withPending : nextToken (withPending p s) = nextToken s := by
  simp only [nextToken, doWork_withPending]
  rfl

theorem observation_withPending (n : Nat) : observation n (withPending p s) = observation n s := by
  induction n generalizing s with
  | zero => rfl
  | succ n ih =>
    rw [observation, observation, nextToken_withPending]
    cases nextToken s with
    | none => rfl
    | some tok =>
      simp only [engineStep_withPending, ih]
      rfl

theorem seen_withPending (e : Event) : e.seen (withPending p s) = e.seen s := by
  cases e with
  | command w =>
    simp only [Event.seen, offerWord_withPending]
    exact observation_withPending ..
  | engine => exact observation_withPending ..
  | read | write | rst => rfl

theorem accepted_withPending (e : Event) : e.accepted (withPending p s) = e.accepted s := by
  cases e <;> rfl

theorem finished_withPending (e : Event) (was : Bool) : e.finished (withPending p s) was = e.finished s was := by
  rw [Event.finished, Event.finished, seen_withPending, accepted_withPending]

theorem endRead_withPending (e : Event) (t : State) (finished was : Bool) :
    e.endRead (withPending p s) t finished was = e.endRead s t finished was := by
  cases e <;> rfl

/-- The step takes its move, with the moves after it left. -/
theorem step_eq_takeEvent : step s = takeEvent (nextMove s) (withPending s.pending.tail s) := by
  cases hp : s.pending with
  | nil => rw [step_nil hp, nextMove_nil hp, List.tail_nil, withPending_self hp, takeEvent_engine]
  | cons e later => rw [step_cons hp, nextMove_cons hp, List.tail_cons]; rfl

end Agenda

/-- A whole command is its word offered, and the Engine run until it is idle, legal or not (R212). -/
theorem takeEvent_command_eq (w : Word) (s : State) : takeEvent (.command w) s = .next (runToIdle (offerWord w s)) := by
  cases hd : decode w with
  | command i =>
    rw [takeEvent_command_of_decode hd, exec_eq_runToIdle, (decode_eq_command_iff.mp hd).1]
  | illegal why =>
    simp only [takeEvent, hd, runIllegal, runCommand, offerWord, selectedBy_illegal hd]

/-! ## What engine steps show (R310) -/

theorem statusesSeen_append (a b : List Seen) : statusesSeen (a ++ b) = statusesSeen a ++ statusesSeen b :=
  List.filterMap_append

theorem observation_of_idle {s : State} (h : s.upc = .idle) (n : Nat) : observation n s = [] := by
  cases n with
  | zero => rfl
  | succ n => rw [observation, nextToken_of_held_or_idle (.inr h)]

theorem observation_succ {s : State} (hr : s.rst = false) (n : Nat) :
    observation (n + 1) s = observation 1 s ++ observation n (engineStep s) := by
  cases htok : nextToken s with
  | none =>
    have hu := (nextToken_eq_none_iff hr).mp htok
    rw [engineStep_idle hu, observation_of_idle hu, observation_of_idle hu, observation_of_idle hu]
    rfl
  | some tok =>
    simp only [observation, htok, List.append_nil]

/-- An engine step shows a STATUS value exactly when it is a Finish. -/
theorem statusesSeen_engineStep {s : State} (hr : s.rst = false) :
    statusesSeen (observation 1 s) =
      if s.upc ≠ .idle ∧ (engineStep s).upc = .idle then [(engineStep s).status.word] else [] := by
  rcases engineStep_cases s with ⟨hidle, -⟩ | ⟨-, hu, heq⟩ | ⟨st, rest, -, hu, heq⟩
  · have hu : s.upc = .idle := hidle.resolve_left (by simp [hr])
    rw [observation_of_idle hu, if_neg fun h => h.1 hu]
    rfl
  · rw [if_pos ⟨by simp [hu], by rw [heq, finish_upc]⟩, observation, nextToken_fin hr hu]
    rfl
  · rw [if_neg fun h => microStep_upc_ne_idle st rest s (heq ▸ h.2), observation, nextToken_run hr hu]
    cases st.prim <;> rfl

/-- The engine steps of a command show one STATUS value, that after its Finish. -/
theorem statusesSeen_observation {n : Nat} {s : State} (hr : s.rst = false) (hu : s.upc ≠ .idle)
    (hidle : (engineRun n s).upc = .idle) : statusesSeen (observation n s) = [(engineRun n s).status.word] := by
  induction n generalizing s with
  | zero => exact absurd hidle hu
  | succ n ih =>
    rw [observation_succ hr, statusesSeen_append, statusesSeen_engineStep hr, engineRun_succ]
    by_cases hnext : (engineStep s).upc = .idle
    · rw [if_pos ⟨hu, hnext⟩, observation_of_idle hnext, engineRun_idle hnext]
      rfl
    · rw [if_neg fun h => hnext h.2]
      exact ih (by rw [engineStep_rst, hr]) hnext hidle

/-! ## Runs with the Host's moves, move by move (R310) -/

/-- The run after the move `e`, which takes the machine from `s` to `t`. -/
def afterMove (e : Event) (s t : State) (r : ProgramRun) : ProgramRun :=
  { machine := t
    seen := r.seen ++ e.seen s
    accepted := r.accepted ++ e.accepted s
    finished := e.finished s r.finished
    endRead := e.endRead s t (e.finished s r.finished) r.endRead }

/-- A run takes its oldest move, when that move does not stop. -/
theorem run_succ_of_takeEvent {r : ProgramRun} {e : Event} {later : List Event} {s t : State}
    (hr : r.machine = withPending (e :: later) s) (ht : takeEvent e (withPending later s) = .next t) (k : Nat) :
    r.run (k + 1) = (afterMove e s t r).run k := by
  have hstep : step r.machine = .next t := by
    rw [hr, step_cons (e := e) (later := later) rfl]
    exact ht
  have hnext : r.next = some (afterMove e s t r) := by
    rw [ProgramRun.next, hstep, hr, nextMove_cons (e := e) (later := later) rfl]
    simp only [seen_withPending, accepted_withPending, finished_withPending, endRead_withPending]
    rfl
  rw [ProgramRun.run, hnext]

/-! ## Programs of whole commands -/

section WholeCommand
variable {s : State} (h : Ready s) (w : Word)
include h

/-- A whole command shows the one STATUS value after its Finish. -/
theorem statusesSeen_command :
    statusesSeen ((Event.command w).seen s) = [(runToIdle (offerWord w s)).status.word] := by
  have ⟨hr, hb, _⟩ := h
  rw [Event.seen, offerWord_ready w hr hb]
  have hrst : (accept w (selectedBy w) s).rst = false := by rw [accept_rst, hr]
  exact statusesSeen_observation hrst (accept_upc_ne_idle _ _ _) (runToIdle_upc hrst)

theorem ready_runToIdle_offerWord : Ready (runToIdle (offerWord w s)) := by
  have ⟨hr, hb, hn⟩ := h
  rw [offerWord_ready w hr hb, runToIdle]
  have hrst : (accept w (selectedBy w) s).rst = false := by rw [accept_rst, hr]
  refine ⟨by rw [engineRun_rst, hrst], ?_, by rwa [engineRun_nPoll, accept_nPoll]⟩
  exact ((busyUntilDone_engineRun _ (busyUntilDone_accept ..)).of_idle (runToIdle_upc hrst)).1

/-- The run after a whole command: it has ended as far as its commands go. -/
theorem afterMove_command (later : List Event) (r : ProgramRun) :
    afterMove (.command w) s (withPending later (runToIdle (offerWord w s))) r =
      { machine := withPending later (runToIdle (offerWord w s))
        seen := r.seen ++ (Event.command w).seen s
        accepted := r.accepted ++ [w]
        finished := true
        endRead := true } := by
  have ⟨hr, hb, _⟩ := h
  have hbusy : (withPending later (runToIdle (offerWord w s))).status.busy = false := (ready_runToIdle_offerWord h w).2.1
  have haccepted : (Event.command w).accepted s = [w] := by simp [Event.accepted, accepting, hr, hb]
  have hfinished : (Event.command w).finished s r.finished = true := by
    rw [Event.finished, statusesSeen_command h]
    rfl
  simp only [afterMove, haccepted, hfinished, Event.endRead, hbusy, Bool.not_false, Bool.and_true]

end WholeCommand

/-- A program offered command by command: the run after it, from a run before it. -/
theorem run_commands {program : List Word} {s : State} (h : Ready s) {r : ProgramRun} (issued : List Word)
    (hr : r.machine = withPending (program.map .command) s) :
    ∃ r', r.run program.length = some r' ∧ r'.accepted = r.accepted ++ program
      ∧ statusesSeen r'.seen = statusesSeen r.seen ++ finishStatuses program s
      ∧ r'.machine = (hostProgram program { machine := withPending [] s, issued := issued }).machine
      ∧ (program ≠ [] ∨ r.endRead = true → r'.endRead = true) := by
  induction program generalizing s r issued with
  | nil => exact ⟨r, rfl, by simp, by simp [finishStatuses], hr, fun hend => hend.resolve_left (absurd rfl)⟩
  | cons w program ih =>
    have hmove : takeEvent (.command w) (withPending (program.map .command) s) =
        .next (withPending (program.map .command) (runToIdle (offerWord w s))) := by
      rw [takeEvent_command_eq, offerWord_withPending, runToIdle_withPending]
    obtain ⟨r', hrun, haccepted, hseen, hmachine, hend⟩ := ih (ready_runToIdle_offerWord h w) (issued ++ [w])
      (r := afterMove (.command w) s (withPending (program.map .command) (runToIdle (offerWord w s))) r) rfl
    rw [afterMove_command h] at haccepted hseen hend
    rw [← runToIdle_withPending, ← offerWord_withPending] at hmachine
    refine ⟨r', (run_succ_of_takeEvent hr hmove _).trans hrun, ?_, ?_, hmachine, fun _ => hend (.inr rfl)⟩
    · rw [haccepted, List.append_assoc]
      rfl
    · rw [hseen, statusesSeen_append, statusesSeen_command h, List.append_assoc]
      rfl

/-! ## What every run keeps -/

/-- Once the Host has read BUSY = 0 after the last Finish, that Finish has come and no command is in progress. -/
structure EndsIdle (r : ProgramRun) : Prop where
  inv : r.machine.Inv
  of_endRead : r.endRead = true → r.finished = true ∧ r.machine.status.busy = false

/-- By the kind of move: what makes the last read, or what keeps it made. -/
theorem endRead_sound {e : Event} {s t : State} {was finished : Bool} (h : s.Inv) (ht : takeEvent e s = .next t)
    (hwas : was = true → finished = true ∧ s.status.busy = false)
    (hend : e.endRead s t (e.finished s finished) was = true) : e.finished s finished = true ∧ t.status.busy = false := by
  cases e with
  | command w =>
    obtain ⟨hbusy, hfinished⟩ := Bool.and_eq_true_iff.mp hend
    exact ⟨hfinished, by simpa using hbusy⟩
  | write off size v =>
    obtain ⟨-, ⟨rfl, -⟩ | ⟨hoff, rfl⟩⟩ := hostWrite_cases ht
    · cases hend
    · have hfinished : (Event.write off size v).finished t finished = finished := by
        simp [Event.finished, Event.seen, Event.accepted, statusesSeen, hoff]
      rw [hfinished]
      exact hwas (by simpa [Event.endRead, hoff] using hend)
  | read off size =>
    rw [finished_read] at hend ⊢
    have hbusy : t.status.busy = s.status.busy := by
      obtain ⟨-, ⟨-, w, rfl⟩ | ⟨-, rfl⟩⟩ := hostRead_cases ht <;> rfl
    rw [hbusy]
    obtain hkept | ⟨⟨-, hidle⟩, hfinished⟩ : was = true ∨ ((off = 0x1#2 ∧ s.status.busy = false) ∧ finished = true) := by
      simpa [Event.endRead] using hend
    · exact hwas hkept
    · exact ⟨hfinished, hidle⟩
  | engine =>
    cases ht
    obtain ⟨hfinished, hbusy⟩ := hwas hend
    have hu : s.upc = .idle := by_contra fun hu => by simp [h.busy_iff.mpr hu] at hbusy
    rw [engineStep_idle hu, Event.finished, Event.seen, observation_of_idle hu, hfinished]
    exact ⟨rfl, hbusy⟩
  | rst level =>
    cases ht
    rw [finished_rst]
    obtain ⟨hfinished, hbusy⟩ := hwas hend
    refine ⟨hfinished, ?_⟩
    unfold setRst
    split
    · rfl
    · exact hbusy

theorem endsIdle_next {r r' : ProgramRun} (h : EndsIdle r) (hnext : r.next = some r') : EndsIdle r' := by
  obtain ⟨t, hstep, rfl⟩ := programNext_cases hnext
  refine ⟨stepKeepsTheInvariant _ _ h.inv hstep, fun hend => ?_⟩
  rw [step_eq_takeEvent] at hstep
  have hsound := endRead_sound (s := withPending r.machine.pending.tail r.machine) (inv_withOutside h.inv ..) hstep h.of_endRead
  rw [finished_withPending, endRead_withPending] at hsound
  exact hsound hend

theorem endsIdle_run {n : Nat} {r r' : ProgramRun} (h : EndsIdle r) (hrun : r.run n = some r') : EndsIdle r' := by
  induction n generalizing r with
  | zero =>
    cases hrun
    exact h
  | succ n ih =>
    rw [ProgramRun.run] at hrun
    split at hrun
    · next hnext => exact ih (endsIdle_next h hnext) hrun
    · cases hrun

theorem ended_of_accepted {program : List Word} {r : ProgramRun} (hne : program ≠ []) (h : r.accepted = program) :
    r.ended program = r.endRead := by
  simp [ProgramRun.ended, hne, h]

theorem ended_iff {program : List Word} {r : ProgramRun} :
    r.ended program = true ↔ program ≠ [] ∧ r.accepted = program ∧ r.endRead = true := by
  simp [ProgramRun.ended, and_assoc]

/-! ## One command in atomic moves -/

/-- A run whose last command is in progress or has had its Finish, with no read since. -/
def inCommand (later : List Event) (s : State) (seen : List Seen) (accepted : List Word) : ProgramRun :=
  { machine := withPending later s, seen := seen, accepted := accepted, finished := decide (s.upc = .idle), endRead := false }

/-- An engine step finishes the command exactly when it leaves the Engine idle. -/
theorem finished_engine {s : State} (hr : s.rst = false) :
    Event.engine.finished s (decide (s.upc = .idle)) = decide ((engineStep s).upc = .idle) := by
  rw [Event.finished, Event.seen, statusesSeen_engineStep hr]
  by_cases hu : s.upc = .idle
  · simp [Event.accepted, hu, engineStep_idle hu]
  · by_cases hnext : (engineStep s).upc = .idle <;> simp [hu, hnext]

theorem offerWord_inv {s : State} (h : s.Inv) (w : Word) : (offerWord w s).Inv := offer_inv h rfl

theorem offerWord_rst_busy {s : State} (h : Ready s) (w : Word) :
    (offerWord w s).rst = false ∧ (offerWord w s).status.busy = true := by
  have ⟨hr, hb, _⟩ := h
  rw [offerWord_ready w hr hb, accept_rst, accept_status]
  exact ⟨hr, rfl⟩

/-- The CMD write starts its command. -/
theorem run_start_write {s : State} {w : Word} {later : List Event} (h : Ready s)
    (hp : s.pending = .write 0x0#2 2 w :: later) (k : Nat) :
    (ProgramRun.start s).run (k + 1) = (inCommand later (offerWord w s) [] [w]).run k := by
  have ⟨hr, hb, _⟩ := h
  have hmove : takeEvent (.write 0x0#2 2 w) (withPending later s) = .next (withPending later (offerWord w s)) := by
    rw [takeEvent_write, hostWrite_cmd, offerWord_withPending]
  have hidle : (offerWord w s).upc ≠ .idle := by
    rw [offerWord_ready w hr hb]
    exact accept_upc_ne_idle _ _ _
  rw [run_succ_of_takeEvent (withPending_self hp).symm hmove]
  simp [afterMove, inCommand, ProgramRun.start, Event.seen, Event.accepted, Event.finished, Event.endRead, accepting, hr, hb,
    statusesSeen, hidle]

/-- A CMD write while the command is in progress is discarded, and starts none (R46, R51). -/
theorem run_write_of_busy {s : State} (hr : s.rst = false) (hb : s.status.busy = true) (v : Word) (later : List Event)
    (seen : List Seen) (accepted : List Word) (k : Nat) :
    (inCommand (.write 0x0#2 2 v :: later) s seen accepted).run (k + 1) =
      (inCommand later (Machine.discard s) seen accepted).run k := by
  have hmove : takeEvent (.write 0x0#2 2 v) (withPending later s) = .next (withPending later (Machine.discard s)) := by
    rw [takeEvent_write, hostWrite_cmd, offerWord_withPending, offerWord, offer_busy _ _ hr hb]
  have haccepted : (Event.write 0x0#2 2 v).accepted s = [] := by simp [Event.accepted, accepting, hb]
  have hfinished : ∀ was, (Event.write 0x0#2 2 v).finished s was = was := fun was => by
    simp [Event.finished, Event.seen, haccepted, statusesSeen]
  rw [run_succ_of_takeEvent rfl hmove]
  simp only [afterMove, haccepted, hfinished, Event.seen, List.append_nil]
  rfl

/-- Engine steps show what `observation` says, and finish the command when they leave the Engine idle. -/
theorem run_engine {s : State} (hr : s.rst = false) (m : Nat) (later : List Event) (seen : List Seen)
    (accepted : List Word) (k : Nat) :
    (inCommand (List.replicate m .engine ++ later) s seen accepted).run (k + m) =
      (inCommand later (engineRun m s) (seen ++ observation m s) accepted).run k := by
  induction m generalizing s seen with
  | zero => simp [observation]
  | succ m ih =>
    have hmove : takeEvent .engine (withPending (List.replicate m .engine ++ later) s) =
        .next (withPending (List.replicate m .engine ++ later) (engineStep s)) := by
      rw [takeEvent_engine, engineStep_withPending]
    have hafter : afterMove .engine s (withPending (List.replicate m .engine ++ later) (engineStep s))
        (inCommand (List.replicate (m + 1) .engine ++ later) s seen accepted) =
          inCommand (List.replicate m .engine ++ later) (engineStep s) (seen ++ observation 1 s) accepted := by
      simp [afterMove, inCommand, Event.seen, Event.accepted, Event.endRead, finished_engine hr]
    rw [← Nat.add_assoc, run_succ_of_takeEvent rfl hmove, hafter, ih (by rw [engineStep_rst, hr]), engineRun_succ,
      observation_succ hr m, List.append_assoc]

/-- A reset ends no command with a Finish, and takes no Finish back (R280). -/
theorem run_reset (s : State) (later : List Event) (seen : List Seen) (accepted : List Word) (k : Nat) :
    (inCommand (.rst true :: later) s seen accepted).run (k + 1) =
      ProgramRun.run k { inCommand later s seen accepted with machine := withPending later (setRst true s) } := by
  have hmove : takeEvent (.rst true) (withPending later s) = .next (withPending later (setRst true s)) := rfl
  rw [run_succ_of_takeEvent rfl hmove]
  simp [afterMove, inCommand, Event.seen, Event.accepted, Event.endRead]

/-- A read of STATUS is the last read when BUSY = 0 and the Finish has come. -/
theorem run_readStatus {r : ProgramRun} {s : State} (hr : r.machine = withPending [.read 0x1#2 2] s)
    (herr : s.status.err ≤ 3#3) :
    r.run 1 = some { r with
      machine := reply s.status.word (withPending [] s), endRead := r.endRead || (!s.status.busy && r.finished) } := by
  have hmove : takeEvent (.read 0x1#2 2) (withPending [] s) = .next (reply s.status.word (withPending [] s)) :=
    hostRead_status (s := withPending [] s) herr
  rw [run_succ_of_takeEvent hr hmove]
  simp [afterMove, Event.seen, Event.accepted, Event.endRead, ProgramRun.run]

/-- Engine steps and then a read of STATUS: the run has ended when the command's engine steps are no more than those. -/
theorem run_engine_readStatus {s : State} (h : s.Inv) (hr : s.rst = false) (m : Nat) (accepted : List Word) :
    ∃ r, (inCommand (List.replicate m .engine ++ [.read 0x1#2 2]) s [] accepted).run (m + 1) = some r
      ∧ r.accepted = accepted ∧ r.endRead = decide (stepsToIdle s ≤ m) ∧ r.seen = observation m s := by
  have hinv := engineRun_inv m h
  rw [Nat.add_comm, run_engine hr, run_readStatus rfl hinv.err_le]
  refine ⟨_, rfl, rfl, ?_, rfl⟩
  by_cases hu : (engineRun m s).upc = .idle
  · have hbusy : (engineRun m s).status.busy = false := Bool.eq_false_iff.mpr fun hb => hinv.busy_iff.mp hb hu
    simp [inCommand, hbusy, hu, (upc_engineRun_iff hr).mp hu]
  · simp [inCommand, hu, mt (upc_engineRun_iff hr).mpr hu]

theorem stepsToIdle_discard {s : State} (hr : s.rst = false) : stepsToIdle (Machine.discard s) = stepsToIdle s :=
  eq_of_forall_ge_iff fun m => by
    rw [← upc_engineRun_iff hr, ← upc_engineRun_iff (s := Machine.discard s) hr, engineRun_discard, discard_upc]

/-! ## The obligations of 70_reset_and_hazards.md -/

/-- Settles O42: reset writes every register, a held reset input lets no move write one, and the moves that end a command are its
Finish and reset. -/
theorem resetAbandonsAndHolds : Obligations.ResetAbandonsAndHolds :=
  ⟨fun s => ⟨_, takeEvent_rst true s, rfl, rfl, rfl, rfl, rfl, rfl, status_word_reset, rfl, rfl, rfl, rfl, rfl⟩,
    fun _ _ _ h hr ht => resetRegisters_of_held (h.reset_held hr) hr ht,
    fun _ _ _ h hb ht hb' => done_or_reset_of_not_busy h hb ht hb'⟩

/-- Settles O47: the number is the length of the trace to idle. -/
theorem everyCommandFinishes : Obligations.EveryCommandFinishes := by
  intro w s ⟨hr, hb, hn⟩
  rw [offerWord_ready w hr hb]
  have hrst : (accept w (selectedBy w) s).rst = false := by rw [accept_rst, hr]
  have hstatus := busyUntilDone_accept w (selectedBy w) s
  have hidle : (engineRun (stepsToIdle (accept w (selectedBy w) s)) (accept w (selectedBy w) s)).upc = .idle :=
    (upc_engineRun_iff hrst).mpr le_rfl
  refine ⟨stepsToIdle (accept w (selectedBy w) s), ?_, ?_, hidle, ((busyUntilDone_engineRun _ hstatus).of_idle hidle).2,
    fun m hm => (busyUntilDone_engineRun m hstatus).of_not_idle fun hu => ?_⟩
  · by_contra hzero
    exact accept_upc_ne_idle w (selectedBy w) s ((upc_engineRun_iff hrst (m := 0)).mpr (by omega))
  · have hle := stepsToIdle_le_cost (accept w (selectedBy w) s)
    rw [accept_nPoll] at hle
    exact hle.trans (cost_accept_le hn w)
  · exact absurd ((upc_engineRun_iff hrst).mp hu) (by omega)

/-- Settles O49: each command's step list sets SDA only where the command may, from the level its precondition gives. -/
theorem dataChangesOnlyWhileSclLow : Obligations.DataChangesOnlyWhileSclLow := by
  intro i s n v hn hissue htok
  obtain ⟨⟨hr, hb⟩, hpre⟩ : (s.rst = false ∧ s.status.busy = false) ∧ precondition i s = true := by
    simpa [mayIssue] using hissue
  have hstart : SetsSdaSafely i (offerWord (encode i) s) := by
    rw [offerWord_encode ⟨hr, hb, hn⟩]
    have hlist := stepListOf_sdaSetsAllowed hpre
    exact setsSdaSafely_doWork (s := accept (encode i) (some (stepListOf i)) s) [] rfl hlist
  obtain ⟨src, hmay, hconst⟩ := (setsSdaSafely_engineRun n hstart).allowed htok
  cases i with
  | release =>
    obtain ⟨hscl, rfl⟩ : (engineRun n (offerWord (encode .release) s)).sclOut = true ∧ src = .const true := by
      simpa [maySetSda] using hmay
    exact ⟨hscl, hconst _ rfl⟩
  | start =>
    obtain hscl | rfl : (engineRun n (offerWord (encode .start) s)).sclOut = false ∨ src = .const false := by
      simpa [maySetSda] using hmay
    · exact .inl hscl
    · exact .inr (.inl ⟨rfl, hconst _ rfl⟩)
  | stop =>
    obtain hscl | rfl : (engineRun n (offerWord (encode .stop) s)).sclOut = false ∨ src = .const true := by
      simpa [maySetSda] using hmay
    · exact .inl hscl
    · exact .inr (.inr ⟨rfl, hconst _ rfl⟩)
  | recvBit | sendBit | sendByte | recvByte | sendAddr | recvAck | sendAck | sendNack =>
    exact .inl (by simpa [maySetSda] using hmay)

/-- Settles O59: command by command by induction on the program; what every run keeps; and one command in atomic moves, by the
number of its engine steps. -/
theorem programEndsWithTheReadAfterItsLastFinish : Obligations.ProgramEndsWithTheReadAfterItsLastFinish := by
  refine ⟨fun program s hne h hp => ?_, fun program s n r h hrun hended => ?_, fun w s m h hready hp => ?_,
    fun w s m h hready hp => ?_, fun w v s m h hready hp => ?_⟩
  · obtain ⟨r, hrun, haccepted, hseen, hmachine, hend⟩ := run_commands h [] (r := ProgramRun.start s) (withPending_self hp).symm
    exact ⟨r, hrun, ended_iff.mpr ⟨hne, haccepted, hend (.inl hne)⟩, hseen, hmachine⟩
  · obtain ⟨-, haccepted, hend⟩ := ended_iff.mp hended
    obtain ⟨hfinished, hbusy⟩ := (endsIdle_run (r := ProgramRun.start s) ⟨h, nofun⟩ hrun).of_endRead hend
    exact ⟨haccepted, hfinished, hbusy⟩
  · obtain ⟨hrst, -⟩ := offerWord_rst_busy hready w
    obtain ⟨r, hrun, haccepted, hend, hseen⟩ := run_engine_readStatus (offerWord_inv h w) hrst m [w]
    exact ⟨r, (run_start_write hready hp _).trans hrun, (ended_of_accepted (List.cons_ne_nil _ _) haccepted).trans hend, hseen⟩
  · obtain ⟨hrst, -⟩ := offerWord_rst_busy hready w
    rw [run_start_write hready hp, Nat.add_comm, run_engine hrst, run_reset,
      run_readStatus (s := setRst true (engineRun m (offerWord w s))) rfl (show 0#3 ≤ 3#3 by decide)]
    refine ⟨_, rfl, ?_, rfl⟩
    rw [ended_of_accepted (List.cons_ne_nil _ _) rfl, ← decide_eq_decide.mpr (upc_engineRun_iff hrst)]
    rfl
  · obtain ⟨hrst, hbusy⟩ := offerWord_rst_busy hready w
    obtain ⟨r, hrun, haccepted, hend, -⟩ :=
      run_engine_readStatus (discard_inv (offerWord_inv h w) hrst) hrst m [w]
    refine ⟨r, ((run_start_write hready hp _).trans (run_write_of_busy hrst hbusy ..)).trans hrun, ?_, ?_⟩
    · simp [ProgramRun.ended, haccepted]
    · rw [ended_of_accepted (List.cons_ne_nil _ _) haccepted, hend, stepsToIdle_discard hrst]

end Sys2Proof.Proofs

end
